-- ==== Sys2Proof/Word.lean ====
section
/-! DEFINITION. The word types of the engine's notation (rule R10): a byte of the pin interface and the nibble that a
4-bit transfer moves. -/

namespace Sys2Proof

/-- One byte: an instruction byte or a data byte (rule R12). -/
abbrev Byte := BitVec 8

/-- One half of a byte, what one enable pulse carries in 4-bit mode (rule R12, "nibble transfer"). -/
abbrev Nibble := BitVec 4

end Sys2Proof
end

