-- ==== Sys2Proof/Config.lean ====
section
/-! DEFINITION. The configuration record CFG, which is fixed at construction (rules R7, R8, R9), and the free values of
the model: what the spec calls unknown at the sink, as constants with no body, so that nothing can evaluate them. -/

namespace Sys2Proof

/-- Rule R16: the transfer mode, derived once from how many data lines were supplied. -/
inductive Mode where
  | fourBit
  | eightBit
deriving DecidableEq, Repr

/-- Rules R7 and R8: the construction parameters and the parameters the source leaves open. Times are in nanoseconds.
A pin identifier is an opaque value compared only for equality (rule R14), here a natural number. -/
structure Cfg where
  cols : Int
  rows : Int
  rs : Nat
  e : Nat
  /-- In ascending line order: 8 pins are D0 to D7, 4 pins are D4 to D7 (rule R14). -/
  dataLines : List Nat
  rw : Option Nat
  backlightPin : Option Nat
  /-- Rule R15: the held table, row index to DDRAM base address. An entry is a number, and well-formedness (rule R17 (d))
  bounds it to 7 bits, so that a default table that does not fit is refused and not wrapped. -/
  rowBase : List Nat
  tPw : Nat
  tReset1 : Nat
  tReset2 : Nat
  tReset3 : Nat
  tShort : Nat
  tLong : Nat
  tHome : Nat
  tData : Nat
  font5x10 : Bool
  blActiveHigh : Bool
  cpWidth : Nat
  opcClear : Byte
  opcHome : Byte
  opcEntry : Byte
  opcDisplay : Byte
  opcShift : Byte
  opcFunction : Byte
  opcCgram : Byte
  opcDdram : Byte
deriving DecidableEq, Repr

/-! The free values. Each is a function of the draw's index (the field `draws` of State), so that two draws need not
agree. Log entry 3. -/

/-- Rule R55: the interface width of an unknown sink; true is 8. -/
opaque Config.freeWide : Nat → Bool
/-- Rule R55: the pending high nibble of an unknown sink. -/
opaque Config.freeHalf : Nat → Option Nibble
/-- Rules R55 and R59: an unknown address counter, at power-on or past the end of a line or of CGRAM. -/
opaque Config.freeAc : Nat → BitVec 7
/-- Rule R55: the target RAM of an unknown sink; true is CGRAM. -/
opaque Config.freeTarget : Nat → Bool
/-- Rule R55: I/D of an unknown sink. -/
opaque Config.freeId : Nat → Bool
/-- Rule R55: S of an unknown sink. -/
opaque Config.freeS : Nat → Bool
/-- Rule R55: D of an unknown sink. -/
opaque Config.freeD : Nat → Bool
/-- Rule R55: C of an unknown sink. -/
opaque Config.freeC : Nat → Bool
/-- Rule R55: B of an unknown sink. -/
opaque Config.freeB : Nat → Bool
/-- Rule R55: N of an unknown sink. -/
opaque Config.freeN : Nat → Bool
/-- Rule R55: F of an unknown sink. -/
opaque Config.freeF : Nat → Bool
/-- Rule R55: SHIFT of an unknown sink, and after a data transfer with S = 1 (log entry 15). -/
opaque Config.freeShift : Nat → Int
/-- Rules R55 and R61: the DDRAM cell at an address in an unknown sink. -/
opaque Config.freeDdram : Nat → Nat → Byte
/-- Rules R55, R61 and R181: the CGRAM cell at an address in an unknown sink, and after the acceptance of an init. -/
opaque Config.freeCgram : Nat → Nat → BitVec 5
/-- Rule R60: whether SHIFT counts a shift to the right up (log entry 14). -/
opaque Config.freeShiftRightUp : Bool
/-- Rule R60: whether a cursor move to the right counts the address counter up (log entry 20). -/
opaque Config.freeCursorRightUp : Bool
/-- Rule R56: the four bits the sink reads from the undriven lines D3 to D0. -/
opaque Config.freeNibble : Nat → Nibble

end Sys2Proof
end

