-- ==== Sys2Proof/Syntax.lean ====
section
/-! DEFINITION. The instructions: one constructor per row of spec/opcode_table.json, with the operand domains of rule
R64, and the encoded forms in which an instruction is presented (rules R65, R67, R71). -/

namespace Sys2Proof

/-- Rule R64: the operand of display_shift. -/
inductive Direction where
  | left
  | right
deriving DecidableEq, Repr

/-- Rule R64: a coordinate of write, an integer or the marker *current*. -/
inductive Coord where
  | current
  | at (v : Int)
deriving DecidableEq, Repr

/-- The rows of the opcode table: the eleven host operations (HOST), the nine transfer kinds (LCD9) and the two
nibble-only forms (LCD5). -/
inductive Instr where
  | init
  | clear
  | home
  | position (col row : Int)
  | write (text : List Nat) (col row : Coord)
  | writeChar (code : Byte)
  | displayOnOff (state : Bool)
  | backlight (state : Bool)
  | createChar (slot : Int) (pattern : List Byte)
  | displayShift (direction : Direction)
  | cursor (visible blink : Bool)
  | clearDisplay
  | returnHome
  | entryModeSet (i s : Bool)
  | displayControl (d c b : Bool)
  | cursorDisplayShift (s r : Bool)
  | functionSet (l n f : Bool)
  | setCgramAddr (a : BitVec 6)
  | setDdramAddr (a : BitVec 7)
  | writeData (b : Byte)
  | force8Nibble
  | narrow4Nibble
deriving DecidableEq, Repr

/-- Whether the row is a host operation (format HOST), the unit of execution of rule R12. -/
def Instr.isOperation : Instr → Bool
  | .init | .clear | .home | .position _ _ | .write _ _ _ | .writeChar _ | .displayOnOff _ | .backlight _
  | .createChar _ _ | .displayShift _ | .cursor _ _ => true
  | .clearDisplay | .returnHome | .entryModeSet _ _ | .displayControl _ _ _ | .cursorDisplayShift _ _
  | .functionSet _ _ _ | .setCgramAddr _ | .setDdramAddr _ | .writeData _ | .force8Nibble | .narrow4Nibble => false

/-- An instruction as it is presented. A host operation is a 40-bit command word and its payload bits (rule R65), a
transfer is a 9-bit or a 5-bit word (rules R67, R71). The payload is one stream of bits, each of its fields least
significant bit first (log entry 11). -/
inductive Encoded where
  | host (word : BitVec 40) (payload : List Bool)
  | lcd9 (word : BitVec 9)
  | lcd5 (word : BitVec 5)
deriving DecidableEq, Repr

end Sys2Proof
end

