-- ==== Sys2Proof/WellFormed.lean ====
section
/-! DEFINITION. Which instructions have an encoding: the operand ranges that the command word and the payload of rule
R65 can hold. The meaning of an instruction does not depend on it (rule R65: "the operation rules are written over the
operand names"). -/

namespace Sys2Proof

/-- Rule R65: `a` and `b` are two's-complement 16-bit integers. -/
def fits16 (v : Int) : Bool := decide (-32768 ≤ v) && decide (v < 32768)

/-- A coordinate that the word can hold; *current* is a bit of its own. -/
def Coord.wellFormed : Coord → Bool
  | .current => true
  | .at v => fits16 v

/-- Rules R64 and R65: the operands fit their fields; `cpWidth` is CFG's CP_WIDTH. -/
def Instr.wellFormed (cpWidth : Nat) : Instr → Bool
  | .position col row => fits16 col && fits16 row
  | .write text col row =>
      col.wellFormed && row.wellFormed && decide (text.length < 2 ^ 16) && text.all (fun c => decide (c < 2 ^ cpWidth))
  | .createChar slot pattern => fits16 slot && decide (pattern.length < 2 ^ 8)
  | .init | .clear | .home | .writeChar _ | .displayOnOff _ | .backlight _ | .displayShift _ | .cursor _ _
  | .clearDisplay | .returnHome | .entryModeSet _ _ | .displayControl _ _ _ | .cursorDisplayShift _ _
  | .functionSet _ _ _ | .setCgramAddr _ | .setDdramAddr _ | .writeData _ | .force8Nibble | .narrow4Nibble => true

end Sys2Proof
end

