-- ==== Sys2Proof/Decode.lean ====
section
/-! DEFINITION. The decoder, total on every presented form and rejecting by name, and the encoder, both from the
encodings of rules R63, R65, R67, R68 and R71. -/

namespace Sys2Proof

/-- Why a presented form names no instruction. -/
inductive DecodeError where
  /-- Rule R66: `op` values 11 to 15 name no operation. -/
  | reservedOpcode
  /-- Rule R65: the payload ends before the length it announces. -/
  | shortPayload
  /-- Rules R67 and R71: the all-zero byte, or a 5-bit word that is neither of the two nibble forms. -/
  | noTransfer
deriving DecidableEq, Repr

/-! ### The payload stream -/

/-- The `w` low bits of `v`, least significant first. -/
def bitsOf : Nat → Nat → List Bool
  | 0, _ => []
  | w + 1, v => (v % 2 == 1) :: bitsOf w (v / 2)

/-- The number that bits stand for, least significant first. -/
def natOf : List Bool → Nat
  | [] => 0
  | b :: bs => b.toNat + 2 * natOf bs

/-- One field of `w` bits off the front of the stream. -/
def takeField (w : Nat) (bits : List Bool) : Option (Nat × List Bool) :=
  if bits.length < w then none else some (natOf (bits.take w), bits.drop w)

/-- `k` fields of `w` bits each off the front of the stream. -/
def takeFields (w : Nat) : Nat → List Bool → Option (List Nat)
  | 0, _ => some []
  | k + 1, bits =>
    match takeField w bits with
    | none => none
    | some (v, rest) =>
      match takeFields w k rest with
      | none => none
      | some vs => some (v :: vs)

/-- A length of `lw` bits, then that many fields of `w` bits (rule R65). What follows them is not read. -/
def takeCounted (lw w : Nat) (bits : List Bool) : Option (List Nat) :=
  match takeField lw bits with
  | none => none
  | some (n, rest) => takeFields w n rest

/-- The stream of a length of `lw` bits and the fields. -/
def putCounted (lw w : Nat) (vs : List Nat) : List Bool :=
  bitsOf lw vs.length ++ vs.flatMap (bitsOf w)

/-! ### The command word -/

/-- Rule R65: bits [39:36]. -/
def opField (w : BitVec 40) : BitVec 4 := w.extractLsb' 36 4
/-- Rule R65: bits [31:16]. -/
def aField (w : BitVec 40) : BitVec 16 := w.extractLsb' 16 16
/-- Rule R65: bits [15:0]. -/
def bField (w : BitVec 40) : BitVec 16 := w.extractLsb' 0 16
/-- Rule R65: bit [33]. -/
def colCurField (w : BitVec 40) : Bool := w.getLsbD 33
/-- Rule R65: bit [32]. -/
def rowCurField (w : BitVec 40) : Bool := w.getLsbD 32

/-- Rule R65: a coordinate of write is its integer field unless its bit says *current*. -/
def coordOf (cur : Bool) (field : BitVec 16) : Coord :=
  if cur then .current else .at field.toInt

/-- Rule R65: 0 is LEFT, 1 is RIGHT. -/
def directionOf (right : Bool) : Direction := if right then .right else .left

/-- Rules R63, R65, R66: a command word and its payload. Unused operand bits and bits [35:34] are ignored. -/
def decodeHost (cpWidth : Nat) (w : BitVec 40) (payload : List Bool) : Except DecodeError Instr :=
  match (opField w).toNat with
  | 0 => .ok .init
  | 1 => .ok .clear
  | 2 => .ok .home
  | 3 => .ok (.position (aField w).toInt (bField w).toInt)
  | 4 =>
    match takeCounted 16 cpWidth payload with
    | some text => .ok (.write text (coordOf (colCurField w) (aField w)) (coordOf (rowCurField w) (bField w)))
    | none => .error .shortPayload
  | 5 => .ok (.writeChar ((aField w).extractLsb' 0 8))
  | 6 => .ok (.displayOnOff ((aField w).getLsbD 0))
  | 7 => .ok (.backlight ((aField w).getLsbD 0))
  | 8 =>
    match takeCounted 8 8 payload with
    | some pattern => .ok (.createChar (aField w).toInt (pattern.map (BitVec.ofNat 8)))
    | none => .error .shortPayload
  | 9 => .ok (.displayShift (directionOf ((aField w).getLsbD 0)))
  | 10 => .ok (.cursor ((aField w).getLsbD 0) ((bField w).getLsbD 0))
  | _ => .error .reservedOpcode

/-! ### The transfer words -/

/-- Rules R67 and R68: a transfer word by RS and then by the highest set bit of its byte, by the standard patterns. Run,
the instruction is built again over CFG's OPC_* (rule R96), so with other OPC_* than the defaults the byte sent need not be
the byte presented. DESIGN CHOICE, unsafe for such a CFG; log entry 6. The don't-care bits of RETURN_HOME (bit 0),
CURSOR_DISPLAY_SHIFT and FUNCTION_SET (bits 1 and 0) are not looked at: a word with one of them set (0x003, 0x01A, 0x029) is
its row, which runs with those bits sent as 0, and is not refused for a byte outside the inventory of rule R107. DESIGN
CHOICE, unsafe for a claim that what is presented is what is sent; log entry 6. -/
def decodeLcd9 (w : BitVec 9) : Except DecodeError Instr :=
  if w.getLsbD 8 then .ok (.writeData (w.extractLsb' 0 8))
  else if w.getLsbD 7 then .ok (.setDdramAddr (w.extractLsb' 0 7))
  else if w.getLsbD 6 then .ok (.setCgramAddr (w.extractLsb' 0 6))
  else if w.getLsbD 5 then .ok (.functionSet (w.getLsbD 4) (w.getLsbD 3) (w.getLsbD 2))
  else if w.getLsbD 4 then .ok (.cursorDisplayShift (w.getLsbD 3) (w.getLsbD 2))
  else if w.getLsbD 3 then .ok (.displayControl (w.getLsbD 2) (w.getLsbD 1) (w.getLsbD 0))
  else if w.getLsbD 2 then .ok (.entryModeSet (w.getLsbD 1) (w.getLsbD 0))
  else if w.getLsbD 1 then .ok .returnHome
  else if w.getLsbD 0 then .ok .clearDisplay
  else .error .noTransfer

/-- Rule R71 and the table's LCD5 rows: RS and one nibble. -/
def decodeLcd5 (w : BitVec 5) : Except DecodeError Instr :=
  if w = 0b00011#5 then .ok .force8Nibble
  else if w = 0b00010#5 then .ok .narrow4Nibble
  else .error .noTransfer

/-- The decoder. -/
def decode (cpWidth : Nat) : Encoded → Except DecodeError Instr
  | .host w payload => decodeHost cpWidth w payload
  | .lcd9 w => decodeLcd9 w
  | .lcd5 w => decodeLcd5 w

/-! ### The encoder -/

/-- Rule R65: the fixed part of a command word, with bits [35:34] zero. -/
def hostWord (op : BitVec 4) (colCur rowCur : Bool) (a b : BitVec 16) : BitVec 40 :=
  op ++ 0#2 ++ BitVec.ofBool colCur ++ BitVec.ofBool rowCur ++ a ++ b

/-- A boolean operand in bit 0 of its 16-bit field. -/
def boolField (v : Bool) : BitVec 16 := (BitVec.ofBool v).setWidth 16

/-- An integer operand in its 16-bit field; *current* leaves the field zero. -/
def Coord.field : Coord → BitVec 16
  | .current => 0
  | .at v => BitVec.ofInt 16 v

/-- Whether the coordinate's *current* bit is set. -/
def Coord.isCurrent : Coord → Bool
  | .current => true
  | .at _ => false

/-- Rule R64 in the numbering of rule R65. -/
def Direction.bit : Direction → Bool
  | .left => false
  | .right => true

/-- The presented form of an instruction; don't-care bits are 0, as the engine sends them (rule R68). -/
def encode (cpWidth : Nat) : Instr → Encoded
  | .init => .host (hostWord 0 false false 0 0) []
  | .clear => .host (hostWord 1 false false 0 0) []
  | .home => .host (hostWord 2 false false 0 0) []
  | .position col row => .host (hostWord 3 false false (BitVec.ofInt 16 col) (BitVec.ofInt 16 row)) []
  | .write text col row =>
      .host (hostWord 4 col.isCurrent row.isCurrent col.field row.field) (putCounted 16 cpWidth text)
  | .writeChar code => .host (hostWord 5 false false (code.setWidth 16) 0) []
  | .displayOnOff state => .host (hostWord 6 false false (boolField state) 0) []
  | .backlight state => .host (hostWord 7 false false (boolField state) 0) []
  | .createChar slot pattern =>
      .host (hostWord 8 false false (BitVec.ofInt 16 slot) 0) (putCounted 8 8 (pattern.map BitVec.toNat))
  | .displayShift direction => .host (hostWord 9 false false (boolField direction.bit) 0) []
  | .cursor visible blink => .host (hostWord 10 false false (boolField visible) (boolField blink)) []
  | .clearDisplay => .lcd9 0b000000001#9
  | .returnHome => .lcd9 0b000000010#9
  | .entryModeSet i s => .lcd9 (0b0000001#7 ++ BitVec.ofBool i ++ BitVec.ofBool s)
  | .displayControl d c b => .lcd9 (0b000001#6 ++ BitVec.ofBool d ++ BitVec.ofBool c ++ BitVec.ofBool b)
  | .cursorDisplayShift s r => .lcd9 (0b00001#5 ++ BitVec.ofBool s ++ BitVec.ofBool r ++ 0#2)
  | .functionSet l n f => .lcd9 (0b0001#4 ++ BitVec.ofBool l ++ BitVec.ofBool n ++ BitVec.ofBool f ++ 0#2)
  | .setCgramAddr a => .lcd9 (0b001#3 ++ a)
  | .setDdramAddr a => .lcd9 (0b01#2 ++ a)
  | .writeData b => .lcd9 (0b1#1 ++ b)
  | .force8Nibble => .lcd5 0b00011#5
  | .narrow4Nibble => .lcd5 0b00010#5

/-! ### A word of the opcode table -/

/-- The presented form that `nbits` bits with the value `w` stand for, numbered as the opcode table numbers them: one
byte holds an LCD5 word, two an LCD9 word, more a command word and then the 16 payload bits that follow it (zero for a
word of the table: an empty text, an empty pattern). A bit above a transfer word makes it no transfer. -/
def tableWord (nbits w : Nat) : Option Encoded :=
  if nbits ≤ 8 then (if w < 2 ^ 5 then some (.lcd5 (BitVec.ofNat 5 w)) else none)
  else if nbits ≤ 16 then (if w < 2 ^ 9 then some (.lcd9 (BitVec.ofNat 9 w)) else none)
  else some (.host (BitVec.ofNat 40 w) (bitsOf 16 (w / 2 ^ 40)))

/-- What the decoder reads from a table row's word; CP_WIDTH at its default, which an empty text does not use. -/
def decodeTableWord (nbits w : Nat) : Option Instr :=
  match tableWord nbits w with
  | none => none
  | some x =>
    match decode 21 x with
    | .ok i => some i
    | .error _ => none

end Sys2Proof
end

