-- ==== Sys2Proof/Machine/Bits.lean ====
section
/-! DEFINITION. The bit and field helpers of the notation (rule R10). -/

namespace Sys2Proof

/-- `b[7:4]`. -/
def hiNibble (b : Byte) : Nibble := b.extractLsb' 4 4

/-- `b[3:0]`. -/
def loNibble (b : Byte) : Nibble := b.extractLsb' 0 4

/-- A truth value as a bit of a byte (rule R10). -/
def bit (v : Bool) : Byte := if v then 1 else 0

end Sys2Proof
end

