-- ==== Sys2Proof/Machine/Geometry.lean ====
section
/-! DEFINITION. What CFG derives and requires: the transfer mode (rules R9, R16), well-formedness (rule R17), the row
table's defaults (rule R46), the two address translations (rules R47, R48) and the defaults of rule R8. -/

namespace Sys2Proof

/-- Rule R9: FOUR_BIT with four data lines. Only a well-formed CFG has four or eight. -/
def Cfg.mode (cfg : Cfg) : Mode := if cfg.dataLines.length = 4 then .fourBit else .eightBit

/-- Rule R9: the number of data lines of the mode. -/
def Cfg.dw (cfg : Cfg) : Nat :=
  match cfg.mode with
  | .fourBit => 4
  | .eightBit => 8

/-- Rule R9. -/
def Cfg.hasRw (cfg : Cfg) : Bool := cfg.rw.isSome

/-- Rule R9. -/
def Cfg.hasBl (cfg : Cfg) : Bool := cfg.backlightPin.isSome

/-- Every pin the engine owns, in the order of rule R177. -/
def Cfg.pins (cfg : Cfg) : List Nat :=
  [cfg.rs] ++ cfg.rw.toList ++ [cfg.e] ++ cfg.dataLines ++ cfg.backlightPin.toList

/-- Whether no pin occurs twice. -/
def distinctPins : List Nat → Bool
  | [] => true
  | p :: ps => !ps.contains p && distinctPins ps

/-- Rule R17 (a) to (d), one conjunct each. -/
def Cfg.wf (cfg : Cfg) : Bool :=
  (cfg.dataLines.length == 4 || cfg.dataLines.length == 8)
  && distinctPins cfg.pins
  && (decide (0 < cfg.cols) && (decide (cfg.rows = 1) || decide (cfg.rows = 2) || decide (cfg.rows = 4)))
  && (decide ((cfg.rowBase.length : Int) = cfg.rows)
      && cfg.rowBase.all (fun base => decide ((base : Int) + cfg.cols - 1 ≤ 0x7F)))

/-- Rule R47: the DDRAM address of a cell. For a coordinate in range of a well-formed CFG the sum fits 7 bits. -/
def Cfg.ddramAddr (cfg : Cfg) (col row : Int) : BitVec 7 :=
  BitVec.ofInt 7 (cfg.rowBase.getD row.toNat 0 + col)

/-- Rule R48: the CGRAM address at which a slot starts, a left shift by 3 of a slot 0 to 7. -/
def cgramAddr (slot : Int) : BitVec 6 := BitVec.ofInt 6 (slot * 8)

/-- Rule R46: the default row table of a geometry. -/
def defaultRowBase (cols rows : Int) : List Nat :=
  if rows = 1 then [0x00]
  else if rows = 2 then [0x00, 0x40]
  else [0x00, 0x40, 0x00 + cols.toNat, 0x40 + cols.toNat]

/-- Rules R8, R46, R96: a CFG whose open parameters all have their defaults. -/
def Cfg.make (cols rows : Int) (rs e : Nat) (dataLines : List Nat) (rw backlightPin : Option Nat) : Cfg where
  cols := cols
  rows := rows
  rs := rs
  e := e
  dataLines := dataLines
  rw := rw
  backlightPin := backlightPin
  rowBase := defaultRowBase cols rows
  tPw := 450
  tReset1 := 4100000
  tReset2 := 100000
  tReset3 := 100000
  tShort := 37000
  tLong := 1520000
  tHome := 1520000
  tData := 37000
  font5x10 := false
  blActiveHigh := true
  cpWidth := 21
  opcClear := 0x01
  opcHome := 0x02
  opcEntry := 0x04
  opcDisplay := 0x08
  opcShift := 0x10
  opcFunction := 0x20
  opcCgram := 0x40
  opcDdram := 0x80

/-- The instruction base bytes have their default values (rule R96). -/
def Cfg.standardBytes (cfg : Cfg) : Bool :=
  cfg.opcClear == 0x01 && cfg.opcHome == 0x02 && cfg.opcEntry == 0x04 && cfg.opcDisplay == 0x08
  && cfg.opcShift == 0x10 && cfg.opcFunction == 0x20 && cfg.opcCgram == 0x40 && cfg.opcDdram == 0x80

/-- The configuration that State.reset is constructed with, the spec's V-CFG-1. DESIGN CHOICE, unsafe where a claim
rests on the values of this one configuration; log entry 1. -/
def resetCfg : Cfg := Cfg.make 16 2 1 2 [3, 4, 5, 6] none none

end Sys2Proof
end

