-- ==== Sys2Proof/Machine/Bytes.lean ====
section
/-! DEFINITION. The builders of the instruction bytes (rules R96 to R104), over CFG's OPC_* parameters. -/

namespace Sys2Proof.Machine

/-- Rule R97. -/
def clearByte (cfg : Cfg) : Byte := cfg.opcClear

/-- Rule R98. -/
def homeByte (cfg : Cfg) : Byte := cfg.opcHome

/-- Rule R99. -/
def entryByte (cfg : Cfg) (i s : Bool) : Byte := cfg.opcEntry ||| (bit i <<< 1) ||| bit s

/-- Rule R100. -/
def displayByte (cfg : Cfg) (d c b : Bool) : Byte :=
  cfg.opcDisplay ||| (bit d <<< 2) ||| (bit c <<< 1) ||| bit b

/-- Rule R101. -/
def shiftByte (cfg : Cfg) (sc rl : Bool) : Byte := cfg.opcShift ||| (bit sc <<< 3) ||| (bit rl <<< 2)

/-- Rule R102. -/
def functionByte (cfg : Cfg) (dl n f : Bool) : Byte :=
  cfg.opcFunction ||| (bit dl <<< 4) ||| (bit n <<< 3) ||| (bit f <<< 2)

/-- Rule R102 (a), FORCE8. -/
def force8Byte (cfg : Cfg) : Byte := functionByte cfg true false false

/-- Rule R102 (b), NARROW4. -/
def narrow4Byte (cfg : Cfg) : Byte := functionByte cfg false false false

/-- Rule R102 (c), FINAL. -/
def finalByte (cfg : Cfg) : Byte :=
  functionByte cfg (decide (cfg.mode = .eightBit)) (decide (2 ≤ cfg.rows)) cfg.font5x10

/-- Rule R103. -/
def cgramByte (cfg : Cfg) (a : BitVec 6) : Byte := cfg.opcCgram ||| a.setWidth 8

/-- Rule R104. -/
def ddramByte (cfg : Cfg) (a : BitVec 7) : Byte := cfg.opcDdram ||| a.setWidth 8

end Sys2Proof.Machine
end

