-- ==== Sys2Proof/Machine/Events.lean ====
section
/-! DEFINITION. The event alphabet of the Pin Interface boundary (rule R81), the pin latches (rule R27), and the effect of
each event on them (rule R28). -/

namespace Sys2Proof.Machine

/-- A line the Pin Interface owns (rule R14). -/
inductive Line where
  | rs
  | rw
  | e
  /-- Line D`i`: `i` is 0 to 7 in 8-bit mode, 4 to 7 in 4-bit mode. -/
  | d (i : Nat)
  | backlight
deriving DecidableEq, Repr

/-- Rule R81. -/
inductive Event where
  | cfgOut (line : Line)
  | ctrl (rs rw : Bool)
  /-- The `w` data lines are set to the `w`-bit pattern `v`. -/
  | data (w : Nat) (v : Byte)
  | e (level : Bool)
  /-- A delay of at least `n` nanoseconds. -/
  | wait (n : Nat)
  | bl (level : Bool)
deriving DecidableEq, Repr

/-- Rule R27. RW and BL exist only if CFG has the pin. D is held in 8 bits, of which the low `DW` are used. -/
structure Latches where
  rs : Bool
  rw : Option Bool
  e : Bool
  d : Byte
  bl : Option Bool
deriving DecidableEq, Repr

/-- Rule R134: the level of the backlight line that shows `state`. -/
def backlightLevel (cfg : Cfg) (state : Bool) : Bool := state == cfg.blActiveHigh

/-- Rule R32: the latches after reset. -/
def Latches.reset (cfg : Cfg) : Latches where
  rs := false
  rw := if cfg.hasRw then some false else none
  e := false
  d := 0
  bl := if cfg.hasBl then some (backlightLevel cfg false) else none

/-- Rule R28. -/
def Latches.apply (cfg : Cfg) (l : Latches) : Event → Latches
  | .ctrl rs rw => { l with rs := rs, rw := if cfg.hasRw then some rw else l.rw }
  | .data w v => if w = cfg.dw then { l with d := v } else l
  | .e level => { l with e := level }
  | .bl level => { l with bl := if cfg.hasBl then some level else l.bl }
  | .wait _ => l
  | .cfgOut _ => l

end Sys2Proof.Machine
end

