-- ==== Sys2Proof/Machine/Pins.lean ====
section
/-! DEFINITION. The primitives of the Pin Interface as event lists (rules R83 to R88), and the construction prefix (rule
R177). -/

namespace Sys2Proof.Machine

/-- Rule R83. -/
def setControl (rs rw : Bool) : List Event := [.ctrl rs rw]

/-- Rule R84. -/
def pulse (cfg : Cfg) : List Event := [.e true, .wait cfg.tPw, .e false]

/-- Rule R85, `send_nibble_or_byte`. -/
def send (cfg : Cfg) (w : Nat) (v : Byte) : List Event := .data w v :: pulse cfg

/-- Rule R86: one full byte, the 4-bit/8-bit multiplexer. -/
def xfer (cfg : Cfg) (rs : Bool) (b : Byte) : List Event :=
  setControl rs false ++
    match cfg.mode with
    | .eightBit => send cfg 8 b
    | .fourBit => send cfg 4 ((hiNibble b).setWidth 8) ++ send cfg 4 ((loNibble b).setWidth 8)

/-- Rule R87: the high nibble alone. -/
def xferHi (cfg : Cfg) (b : Byte) : List Event :=
  setControl false false ++ send cfg 4 ((hiNibble b).setWidth 8)

/-- Rule R88: an instruction byte and its settle wait. -/
def instr (cfg : Cfg) (b : Byte) (t : Nat) : List Event := xfer cfg false b ++ [.wait t]

/-- Rule R88: a data byte and the data settle wait. -/
def data (cfg : Cfg) (b : Byte) : List Event := xfer cfg true b ++ [.wait cfg.tData]

/-- Rule R88: the nibble-only variant of `instr`. -/
def instrHi (cfg : Cfg) (b : Byte) (t : Nat) : List Event := xferHi cfg b ++ [.wait t]

/-- Rules R14 and R177: the data lines in ascending order, D4 to D7 or D0 to D7. -/
def dataLineNames (cfg : Cfg) : List Line :=
  (List.range cfg.dw).map (fun j => Line.d (8 - cfg.dw + j))

/-- Rule R177: the events that reset appends to the empty trace. -/
def constructionEvents (cfg : Cfg) : List Event :=
  [.cfgOut .rs]
  ++ (if cfg.hasRw then [.cfgOut .rw] else [])
  ++ [.cfgOut .e]
  ++ (dataLineNames cfg).map .cfgOut
  ++ (if cfg.hasBl then [.cfgOut .backlight] else [])
  ++ [.e false, .ctrl false false, .data cfg.dw 0]
  ++ (if cfg.hasBl then [.bl (backlightLevel cfg false)] else [])

end Sys2Proof.Machine
end

