-- ==== Sys2Proof/Machine/Memory.lean ====
section
/-! DEFINITION. A memory of the sink, DDRAM or CGRAM: the list of all its cells in one canonical form. Every cell holds a
value; where the spec calls it unknown the value is a draw (rules R55, R61, R181; log entries 3 and 4). -/

namespace Sys2Proof.Machine

/-- What a memory holds, addresses strictly rising. -/
abbrev Memory := List Host.Cell

/-- What an unlisted address reads as: no value, since a memory in canonical form lists every cell that it has. -/
def Memory.unlisted (_ : Nat) : Option Byte := none

/-- The cell at an address, or no value where the memory has no such cell. -/
def Memory.read (m : Memory) (a : Nat) : Option Byte :=
  match m with
  | [] => Memory.unlisted a
  | (k, b) :: rest => if k = a then some b else Memory.read rest a

/-- The memory with one cell written, its place kept in order. -/
def Memory.write (m : Memory) (a : Nat) (b : Byte) : Memory :=
  match m with
  | [] => [(a, b)]
  | (k, c) :: rest =>
    if a < k then (a, b) :: (k, c) :: rest
    else if a = k then (a, b) :: rest
    else (k, c) :: Memory.write rest a b

/-- The memory of `n` cells that hold `f` of their address. -/
def Memory.tabulate (n : Nat) (f : Nat → Byte) : Memory := (List.range n).map (fun a => (a, f a))

/-- The memory of `n` cells that all hold `b`. -/
def Memory.fill (n : Nat) (b : Byte) : Memory := Memory.tabulate n (fun _ => b)

/-- Rules R55 and R61: an unknown DDRAM, the draw with index `k`; each of its 128 cells is any byte. -/
def Memory.unknownDdram (k : Nat) : Memory := Memory.tabulate 128 (Config.freeDdram k)

/-- Rules R55, R61 and R181: an unknown CGRAM, the draw with index `k`; each of its 64 cells is any 5 bits. -/
def Memory.unknownCgram (k : Nat) : Memory := Memory.tabulate 64 (fun a => (Config.freeCgram k a).setWidth 8)

/-- The canonical form of a memory of `n` cells of `width` bits: every cell listed once, in order, and no other address. -/
def Memory.wf (n width : Nat) (m : Memory) : Bool :=
  decide (m.map Prod.fst = List.range n) && m.all (fun cell => decide (cell.2.toNat < 2 ^ width))

end Sys2Proof.Machine
end

