-- ==== Sys2Proof/Machine/Sink.lean ====
section
/-! DEFINITION. The sink abstraction (rules R55 to R61): what the LCD controller does with the enable pulses it sees. No
rule of the engine reads it. -/

namespace Sys2Proof.Machine

/-- Rule R55, TARGET. -/
inductive Target where
  | ddram
  | cgram
deriving DecidableEq, Repr

/-- Rule R61: how much of the sink is known, the model's own mark on it (log entry 26). -/
inductive Knowledge where
  /-- The elements are what the transfers seen so far have made of them. -/
  | known
  /-- Every element is a draw, and each pulse makes it a fresh one. -/
  | unknown
  /-- Unknown, in the first step of an init that was accepted since: this many forced function-sets are still to come. -/
  | recovering (pulses : Nat)
deriving DecidableEq, Repr

/-- Rule R55: the sink's state. -/
structure Sink where
  knowledge : Knowledge
  /-- IF: true is the 8-bit interface, false the 4-bit one. -/
  wide : Bool
  /-- HALF: the pending high nibble. -/
  half : Option Nibble
  ac : BitVec 7
  target : Target
  id : Bool
  s : Bool
  d : Bool
  c : Bool
  b : Bool
  n : Bool
  f : Bool
  /-- SHIFT, the display shift offset; log entry 14. -/
  shift : Int
  /-- 128 cells of 8 bits. -/
  ddram : Memory
  /-- 64 cells of 5 bits. -/
  cgram : Memory
deriving DecidableEq, Repr

/-- Rule R61: an unknown sink, the draw with index `k`. -/
def Sink.unknown (k : Nat) : Sink where
  knowledge := .unknown
  wide := Config.freeWide k
  half := Config.freeHalf k
  ac := Config.freeAc k
  target := if Config.freeTarget k then .cgram else .ddram
  id := Config.freeId k
  s := Config.freeS k
  d := Config.freeD k
  c := Config.freeC k
  b := Config.freeB k
  n := Config.freeN k
  f := Config.freeF k
  shift := Config.freeShift k
  ddram := Memory.unknownDdram k
  cgram := Memory.unknownCgram k

/-- The stretches of DDRAM addresses on which the address counter surely steps by one: the lines of the HD44780 family
(two of 40 addresses, or one of 80) and every visible row of the geometry. PRESUMED, unsafe; log entry 12. -/
def lineSpans (cfg : Cfg) (twoLine : Bool) : List (Nat × Nat) :=
  (if twoLine then [(0x00, 0x27), (0x40, 0x67)] else [(0x00, 0x4F)])
  ++ cfg.rowBase.map (fun base => (base, base + cfg.cols.toNat - 1))

/-- Whether a step of the counter between two addresses stays inside a stretch. -/
def insideSpan (spans : List (Nat × Nat)) (x y : Nat) : Bool :=
  spans.any (fun r => decide (r.1 ≤ x) && decide (x ≤ r.2) && decide (r.1 ≤ y) && decide (y ≤ r.2))

/-- Rule R59: the counter one step up or down. Past the end of a line or of CGRAM it is a draw (U10). -/
def Sink.stepAc (cfg : Cfg) (k : Nat) (up : Bool) (sk : Sink) : BitVec 7 :=
  let spans := match sk.target with
    | .ddram => lineSpans cfg sk.n
    | .cgram => [(0, 63)]
  let here := sk.ac.toNat
  if up then
    if insideSpan spans here (here + 1) then sk.ac + 1 else Config.freeAc k
  else
    if 0 < here && insideSpan spans here (here - 1) then sk.ac - 1 else Config.freeAc k

/-- Rule R58, clear. -/
def Sink.clear (sk : Sink) : Sink :=
  { sk with ddram := Memory.fill 128 0x20, target := .ddram, ac := 0, shift := 0, id := true }

/-- Rule R58, home. -/
def Sink.home (sk : Sink) : Sink := { sk with target := .ddram, ac := 0, shift := 0 }

/-- Rule R60: a shift changes SHIFT by one. The spec does not say which direction counts up (log entry 14). -/
def Sink.shiftStep (right : Bool) : Int := if right == Config.freeShiftRightUp then 1 else -1

/-- Rule R60: a display shift changes SHIFT by one, a cursor move changes AC by one, in a direction that the spec does not
say (log entry 20). -/
def Sink.cursorOrShift (cfg : Cfg) (k : Nat) (s r : Bool) (sk : Sink) : Sink :=
  if s then { sk with shift := sk.shift + Sink.shiftStep r }
  else { sk with ac := sk.stepAc cfg k (r == Config.freeCursorRightUp) }

/-- Rules R57, R58, R60, in the order of rule R67: an instruction byte by its highest set bit. The all-zero byte is no
instruction, and what it does is not said: the sink is then a draw (log entry 20). -/
def Sink.execByte (cfg : Cfg) (k : Nat) (b : Byte) (sk : Sink) : Sink :=
  if b.getLsbD 7 then { sk with target := .ddram, ac := b.extractLsb' 0 7 }
  else if b.getLsbD 6 then { sk with target := .cgram, ac := (b.extractLsb' 0 6).setWidth 7 }
  else if b.getLsbD 5 then { sk with wide := b.getLsbD 4, n := b.getLsbD 3, f := b.getLsbD 2, half := none }
  else if b.getLsbD 4 then sk.cursorOrShift cfg k (b.getLsbD 3) (b.getLsbD 2)
  else if b.getLsbD 3 then { sk with d := b.getLsbD 2, c := b.getLsbD 1, b := b.getLsbD 0 }
  else if b.getLsbD 2 then { sk with id := b.getLsbD 1, s := b.getLsbD 0 }
  else if b.getLsbD 1 then sk.home
  else if b.getLsbD 0 then sk.clear
  else Sink.unknown k

/-- Rule R59: a data byte is stored at AC in TARGET and AC steps by ID. With S = 1 the display also shifts (rule R99); the
spec does not say which way, so SHIFT is then a draw (log entry 15). -/
def Sink.storeByte (cfg : Cfg) (k : Nat) (b : Byte) (sk : Sink) : Sink :=
  let stored := match sk.target with
    | .ddram => { sk with ddram := sk.ddram.write sk.ac.toNat b }
    | .cgram => { sk with cgram := sk.cgram.write (sk.ac.toNat % 64) (b &&& 0x1F) }
  { stored with
    ac := sk.stepAc cfg k sk.id
    shift := if sk.s then Config.freeShift k else sk.shift }

/-- A delivered byte: an instruction with RS = 0, data with RS = 1 (rule R45). -/
def Sink.deliver (cfg : Cfg) (k : Nat) (rs : Bool) (b : Byte) (sk : Sink) : Sink :=
  if rs then sk.storeByte cfg k b else sk.execByte cfg k b

/-- Rule R56: the nibble on lines D7 to D4. -/
def topLines (cfg : Cfg) (d : Byte) : Nibble :=
  match cfg.mode with
  | .eightBit => hiNibble d
  | .fourBit => loNibble d

/-- Rule R56: the byte that a pulse delivers to an 8-bit interface. With four lines driven the low nibble is unknown. -/
def wholeByte (cfg : Cfg) (k : Nat) (d : Byte) : Byte :=
  match cfg.mode with
  | .eightBit => d
  | .fourBit => loNibble d ++ Config.freeNibble k

/-- Whether the latches ask for a read: RW = 1. Without an RW line the display's RW is tied low (rule R179). -/
def asksRead (cfg : Cfg) (l : Latches) : Bool := cfg.hasRw && decide (l.rw = some true)

/-- Rule R56: what the falling edge of one enable pulse does to a known sink. A read, which the engine never makes (rule
R44) and whose effect the spec does not give, leaves the sink unknown (log entry 18). -/
def Sink.latch (cfg : Cfg) (l : Latches) (k : Nat) (sk : Sink) : Sink :=
  if asksRead cfg l then Sink.unknown k
  else if sk.wide then sk.deliver cfg k l.rs (wholeByte cfg k l.d)
  else
    match sk.half with
    | none => { sk with half := some (topLines cfg l.d) }
    | some h => { sk with half := none }.deliver cfg k l.rs (h ++ topLines cfg l.d)

/-- Rule R57: a pulse that forces the 8-bit interface, an instruction whose lines D7 to D4 are 0b0011. -/
def isForcedPulse (cfg : Cfg) (l : Latches) : Bool :=
  !asksRead cfg l && !l.rs && decide (topLines cfg l.d = 0x3)

/-- Rules R57 and R61 and U1: the sink after the last of the three forced pulses of an init. Its interface is 8 bits wide
whatever it was, which rule R57 lets a model take as an axiom, and what no byte has set yet is still a draw. -/
def Sink.converged (cfg : Cfg) (l : Latches) (k : Nat) : Sink :=
  { Sink.unknown k with
    knowledge := .known
    wide := true
    half := none
    n := (wholeByte cfg k l.d).getLsbD 3
    f := (wholeByte cfg k l.d).getLsbD 2 }

/-- Rules R113 and R61: an init is accepted, so that the three forced pulses that follow will make an unknown sink known. -/
def Sink.expectForced (sk : Sink) : Sink :=
  match sk.knowledge with
  | .known => sk
  | .unknown => { sk with knowledge := .recovering 3 }
  | .recovering _ => { sk with knowledge := .recovering 3 }

/-- Rules R56 and R61: what the falling edge of one enable pulse does to the sink. An unknown sink stays unknown, a fresh
draw, until the forced pulses of an init have been sent (log entry 26). -/
def Sink.pulse (cfg : Cfg) (l : Latches) (k : Nat) (sk : Sink) : Sink :=
  match sk.knowledge with
  | .known => sk.latch cfg l k
  | .unknown => Sink.unknown k
  | .recovering left =>
    if isForcedPulse cfg l then
      match left with
      | 0 => Sink.unknown k
      | 1 => Sink.converged cfg l k
      | n + 2 => { Sink.unknown k with knowledge := .recovering (n + 1) }
    else Sink.unknown k

end Sys2Proof.Machine
end

