-- ==== Sys2Proof/Machine/State.lean ====
section
/-! DEFINITION. The machine's state (rule R13), its outcomes' reasons, and the state after reset (rules R32, R176). -/

namespace Sys2Proof.Machine

/-- Rules R18 to R23: the Controller State, the engine's shadow of the display. -/
structure Controller where
  initialized : Bool
  displayOn : Bool
  cursorVisible : Bool
  cursorBlink : Bool
  backlightOn : Bool
  entryIncrement : Bool
  entryShift : Bool
  currentCol : BitVec 7
  currentRow : BitVec 2
deriving DecidableEq, Repr

/-- Rule R24: INIT_STATE, numbered 0 to 4 in this order. -/
inductive InitState where
  | unpowered
  | resetSequence
  | functionSet
  | displayConfigured
  | ready
deriving DecidableEq, Repr

/-- Rules R26 and R151: STATUS. -/
inductive Status where
  | ok
  | configurationError
  | notInitializedError
  | outOfRangeError
  | invalidPatternError
deriving DecidableEq, Repr

/-- Rule R171: the moves of the host. -/
inductive Input where
  /-- Present an operation (or a transfer, log entry 6) and let it run to its end, as one step. -/
  | operate (x : Encoded)
  /-- Present an operation; the following steps emit its events one by one (rule R25). -/
  | start (x : Encoded)
  /-- Nothing presented: a busy engine emits one event, an idle one does nothing. -/
  | wait
  /-- Reset of the engine, which is construction, with the straps sampled at it (rule R176). -/
  | construct (cfg : Cfg)
  /-- The display loses its supply and is powered again, not through the engine (rules R171, R178, R191). -/
  | powerDisplay
deriving DecidableEq, Repr

/-- Rule R13, and the model's own fields `op`, `inputs` and `draws`. -/
structure State where
  /-- CFG, "fixed at construction; never mutated" (rule R13). -/
  cfg : Cfg
  ctl : Controller
  initState : InitState
  busy : Bool
  seq : Nat
  status : Status
  latches : Latches
  trace : List Event
  sink : Sink
  /-- The operation in progress, which the host port holds while BUSY = 1 (rule R13). -/
  op : Option Instr
  /-- The host's coming moves, the next one first; each step consumes one (log entry 5). -/
  inputs : List Input
  /-- The index of the next free value (log entry 3). -/
  draws : Nat
deriving DecidableEq, Repr

/-- Why the machine stops with a fault. -/
inductive Fault where
  /-- Raised by the host's move `construct` with a CFG that rule R17 does not admit: "fatal, construction fails, no
  partial object is usable" (rule R158). Safe: there is no engine afterwards. -/
  | configurationError
deriving DecidableEq, Repr

/-- Why a step has no meaning. -/
inductive Refusal where
  /-- Raised by exec's arm of an instruction that has no meaning yet. Safe: nothing can be proved of such a step. -/
  | notModelled (mnemonic : String)
  /-- Raised by a step that is presented `op` 11 to 15 (rule R66: "A model refuses a command word with such an op").
  Safe: nothing can be proved of such a step. -/
  | reservedOpcode
  /-- Raised by a step that is presented a payload shorter than the length it announces (rule R65, log entry 11). Safe:
  nothing can be proved of such a step. -/
  | shortPayload
  /-- Raised by a step that is presented a transfer word naming no transfer (rule R67: "the all-zero byte is no
  instruction"). Safe: nothing can be proved of such a step. -/
  | noTransfer
  /-- Raised by a nibble-only transfer in 8-bit mode (rule R87: "Never used in EIGHT_BIT mode"; log entry 8). Safe: the
  model stops where the spec gives no effect. -/
  | nibbleInEightBitMode
  /-- Raised by a transfer word whose byte is outside the closed inventory of the engine (rules R72 and R107; U9: "`refuse`
  on the engine side: no rule produces them"). Safe: nothing can be proved of such a step. -/
  | neverEmitted
  /-- Raised by a step that is presented something while BUSY = 1 (rule R170: "the attempt is refused"). Safe: nothing
  can be proved of such a step. -/
  | presentedWhileBusy
  /-- Raised by a step of a state whose CFG is ill-formed (rule R17: "there is no engine to step"). Safe: nothing can be
  proved of such a step. -/
  | illFormedConfig
deriving DecidableEq, Repr

/-- The three outcomes of a step of this machine. -/
abbrev Result := Host.Outcome State Fault Refusal

/-- Rule R32: the Controller State after reset. -/
def Controller.reset : Controller where
  initialized := false
  displayOn := false
  cursorVisible := false
  cursorBlink := false
  backlightOn := false
  entryIncrement := false
  entryShift := false
  currentCol := 0
  currentRow := 0

/-- Rules R32 and R177: an engine just constructed, before a sink in a given state. -/
def State.constructed (cfg : Cfg) (sink : Sink) (inputs : List Input) (draws : Nat) : State where
  cfg := cfg
  ctl := Controller.reset
  initState := .unpowered
  busy := false
  seq := 0
  status := .ok
  latches := Latches.reset cfg
  trace := constructionEvents cfg
  sink := sink
  op := none
  inputs := inputs
  draws := draws

/-- The machine right after reset: constructed with `resetCfg`, the host has presented nothing, the sink is unknown
(rule R61, U1). -/
def State.reset : State := State.constructed resetCfg (Sink.unknown 0) [] 1

end Sys2Proof.Machine
end

