-- ==== Sys2Proof/Machine/Ops.lean ====
section
/-! DEFINITION. The named operations of the machine: emitting an event, running and ending an operation (rule R25), raising
an error (rule R156), resetting the engine (rules R176, R178, R186). -/

namespace Sys2Proof.Machine

/-- Whether an event ends an enable pulse: E falls. -/
def isFall (l : Latches) (ev : Event) : Bool := decide (ev = .e false) && l.e

/-- Rules R11, R25, R28, R56: one micro-step emits one event. It is appended to the trace, takes effect on the latches
and, where it ends an enable pulse, on the sink. -/
def State.emit (s : State) (ev : Event) : State :=
  { s with
    seq := s.seq + 1
    latches := s.latches.apply s.cfg ev
    trace := s.trace ++ [ev]
    sink := if isFall s.latches ev then s.sink.pulse s.cfg s.latches s.draws else s.sink
    draws := if isFall s.latches ev then s.draws + 1 else s.draws }

/-- Events in the order listed, each taking effect before the next (rule R52). -/
def State.emitAll (s : State) (evs : List Event) : State := evs.foldl State.emit s

/-- Rule R25: accepting an operation raises BUSY. -/
def State.accept (s : State) (i : Instr) : State := { s with busy := true, seq := 0, op := some i }

/-- Rule R25: the end of an operation drops BUSY. -/
def State.idle (s : State) : State := { s with busy := false, seq := 0, op := none }

/-- Rules R25 and R126 (d): an operation that has run to its end reports OK. -/
def State.complete (s : State) : State := { s.idle with status := .ok }

/-- Rule R156, the taking of every run-time error: STATUS gets the code, BUSY and SEQ are 0, and nothing else changes.
There is no handler and no return (rules R156, R157). -/
def State.raise (s : State) (code : Status) : State := { s.idle with status := code }

/-- Rule R126: an operation of the READY state. A failing check is raised before the first event; otherwise the events
are emitted and then the operation's state writes are performed. -/
def State.perform (i : Instr) (check : Status) (events : List Event) (commit : State → State) (s : State) : Result :=
  if check = .ok then .next (commit ((s.accept i).emitAll events)) else .next (s.raise check)

/-- One transfer of the opcode table run alone: the engine's primitive, which is no operation and writes no STATUS (log
entry 6). A transfer that the engine never makes is refused (rules R72, R87, R107, U9). -/
def State.transfer (i : Instr) (refusal : Option Refusal) (events : List Event) (s : State) : Result :=
  match refusal with
  | some r => .refused r
  | none => .next ((s.accept i).emitAll events).idle

/-- Rules R111, R112: a transition of the initialization state machine. -/
def State.enter (s : State) (st : InitState) : State := { s with initState := st }

/-- Rules R23, R33: the cached coordinate. -/
def State.setCursor (s : State) (col row : Int) : State :=
  { s with ctl := { s.ctl with currentCol := BitVec.ofInt 7 col, currentRow := BitVec.ofInt 2 row } }

/-- Rules R181 and U3: CGRAM is any value once an init has begun, a fresh draw (log entry 16). -/
def State.forgetCgram (s : State) : State :=
  { s with sink := { s.sink with cgram := Memory.unknownCgram s.draws }, draws := s.draws + 1 }

/-- Rules R57 and R61: an unknown sink waits for the forced pulses of the init that is accepted (log entry 26). -/
def State.expectForced (s : State) : State := { s with sink := s.sink.expectForced }

/-- Rule R61: the sink becomes any value, a fresh draw, and is unknown from now on. -/
def State.loseSink (s : State) : State := { s with sink := Sink.unknown s.draws, draws := s.draws + 1 }

/-- Rules R176, R178, R186: reset of the engine. The sink keeps its state, but an operation cut short leaves it
unknown. -/
def State.reconstruct (s : State) (cfg : Cfg) : State :=
  let s' := if s.busy then s.loseSink else s
  State.constructed cfg s'.sink s'.inputs s'.draws

end Sys2Proof.Machine
end

