-- ==== Sys2Proof/Machine/Operands.lean ====
section
/-! DEFINITION. The operand forms: what a coordinate stands for, the addresses, the low byte of a code point, and how many
characters of a text are kept (rules R69, R70, R74, R131). -/

namespace Sys2Proof.Machine

/-- The cached column as an integer. -/
def State.col (s : State) : Int := (s.ctl.currentCol.toNat : Int)

/-- The cached row as an integer. -/
def State.row (s : State) : Int := (s.ctl.currentRow.toNat : Int)

/-- Rules R64 and R74: a defaulted coordinate is replaced by the cached value at acceptance. -/
def resolve (coord : Coord) (cached : Int) : Int :=
  match coord with
  | .current => cached
  | .at v => v

/-- Rules R69 (c) and R70 (d): the byte sent for a character. -/
def lowByte (codePoint : Nat) : Byte := BitVec.ofNat 8 (codePoint % 256)

/-- Rules R70 (c) and R131: the characters of a text that are kept from column `col` on. -/
def kept (cfg : Cfg) (text : List Nat) (col : Int) : List Nat := text.take (cfg.cols - col).toNat

/-- Rule R88 over a list of bytes: data transfers in list order. -/
def dataAll (cfg : Cfg) (bytes : List Byte) : List Event := bytes.flatMap (data cfg)

/-- The set-DDRAM-address transfer of a cell (rules R69 (a), R104). -/
def positionEvents (cfg : Cfg) (col row : Int) : List Event :=
  instr cfg (ddramByte cfg (cfg.ddramAddr col row)) cfg.tShort

/-- The display-control transfer that shows three flags (rules R69 (d), R100). -/
def displayEvents (cfg : Cfg) (d c b : Bool) : List Event := instr cfg (displayByte cfg d c b) cfg.tShort

end Sys2Proof.Machine
end

