-- ==== Sys2Proof/Machine/Flags.lean ====
section
/-! DEFINITION. STATUS: its numbers, and the checks that decide it, in the order of rule R155. A check answers OK or the
error that the operation raises. -/

namespace Sys2Proof.Machine

/-- Rules R26 and R151: the status codes. -/
def Status.code : Status → BitVec 3
  | .ok => 0
  | .configurationError => 1
  | .notInitializedError => 2
  | .outOfRangeError => 3
  | .invalidPatternError => 4

/-- Rule R24: the numbering of INIT_STATE. -/
def InitState.code : InitState → BitVec 3
  | .unpowered => 0
  | .resetSequence => 1
  | .functionSet => 2
  | .displayConfigured => 3
  | .ready => 4

/-- Rules R126 (a) and R152: the gate comes before every operand check. -/
def State.gate (s : State) (rest : Status) : Status :=
  if s.ctl.initialized then rest else .notInitializedError

/-- Rule R127: a coordinate of the geometry. -/
def inGrid (cfg : Cfg) (col row : Int) : Bool :=
  decide (0 ≤ col) && decide (col < cfg.cols) && decide (0 ≤ row) && decide (row < cfg.rows)

/-- Rules R127 and R153 (a). -/
def checkCoord (cfg : Cfg) (col row : Int) : Status :=
  if inGrid cfg col row then .ok else .outOfRangeError

/-- Rule R136: eight bytes whose high 3 bits are zero. -/
def goodPattern (pattern : List Byte) : Bool :=
  decide (pattern.length = 8) && pattern.all (fun b => decide (b &&& 0xE0 = 0))

/-- Rules R136, R153 (b), R154: the slot first, then the pattern. -/
def checkChar (slot : Int) (pattern : List Byte) : Status :=
  if decide (slot < 0) || decide (7 < slot) then .outOfRangeError
  else if goodPattern pattern then .ok
  else .invalidPatternError

end Sys2Proof.Machine
end

