-- ==== Sys2Proof/Machine/Cursor.lean ====
section
/-! DEFINITION. The operations that move the cursor: clear, home, position (rules R128 to R130). Of each operation: its
check, its events, its state writes, its meaning. -/

namespace Sys2Proof.Machine

def clearCheck (s : State) : Status := s.gate .ok
def clearEvents (s : State) : List Event := instr s.cfg (clearByte s.cfg) s.cfg.tLong
def clearCommit (s : State) : State := (s.setCursor 0 0).complete

/-- Rule R128. -/
def execClear (s : State) : Result :=
  s.perform .clear (clearCheck s) (clearEvents s) clearCommit

def homeCheck (s : State) : Status := s.gate .ok
def homeEvents (s : State) : List Event := instr s.cfg (homeByte s.cfg) s.cfg.tHome
def homeCommit (s : State) : State := (s.setCursor 0 0).complete

/-- Rule R129. -/
def execHome (s : State) : Result :=
  s.perform .home (homeCheck s) (homeEvents s) homeCommit

def positionCheck (col row : Int) (s : State) : Status := s.gate (checkCoord s.cfg col row)
def positionCommit (col row : Int) (s : State) : State := (s.setCursor col row).complete

/-- Rule R130. -/
def execPosition (col row : Int) (s : State) : Result :=
  s.perform (.position col row) (positionCheck col row s) (positionEvents s.cfg col row) (positionCommit col row)

end Sys2Proof.Machine
end

