-- ==== Sys2Proof/Machine/Display.lean ====
section
/-! DEFINITION. The operations on the display's flags, the backlight and the visible window: display_on_off, backlight,
display_shift, cursor (rules R133, R134, R135, R138). -/

namespace Sys2Proof.Machine

def displayOnOffCheck (s : State) : Status := s.gate .ok
def displayOnOffEvents (state : Bool) (s : State) : List Event :=
  displayEvents s.cfg state s.ctl.cursorVisible s.ctl.cursorBlink
def displayOnOffCommit (state : Bool) (s : State) : State :=
  { s.complete with ctl := { s.ctl with displayOn := state } }

/-- Rule R133. -/
def execDisplayOnOff (state : Bool) (s : State) : Result :=
  s.perform (.displayOnOff state) (displayOnOffCheck s) (displayOnOffEvents state s) (displayOnOffCommit state)

def backlightCheck (s : State) : Status := s.gate .ok
/-- Rule R134: one BL event if there is a backlight pin, nothing otherwise. -/
def backlightEvents (state : Bool) (s : State) : List Event :=
  if s.cfg.hasBl then [.bl (backlightLevel s.cfg state)] else []
def backlightCommit (state : Bool) (s : State) : State :=
  { s.complete with ctl := { s.ctl with backlightOn := state } }

/-- Rule R134. -/
def execBacklight (state : Bool) (s : State) : Result :=
  s.perform (.backlight state) (backlightCheck s) (backlightEvents state s) (backlightCommit state)

def displayShiftCheck (s : State) : Status := s.gate .ok
def displayShiftEvents (direction : Direction) (s : State) : List Event :=
  instr s.cfg (shiftByte s.cfg true (decide (direction = .right))) s.cfg.tShort
def displayShiftCommit (s : State) : State := s.complete

/-- Rule R138. -/
def execDisplayShift (direction : Direction) (s : State) : Result :=
  s.perform (.displayShift direction) (displayShiftCheck s) (displayShiftEvents direction s) displayShiftCommit

def cursorCheck (s : State) : Status := s.gate .ok
def cursorEvents (visible blink : Bool) (s : State) : List Event :=
  displayEvents s.cfg s.ctl.displayOn visible blink
def cursorCommit (visible blink : Bool) (s : State) : State :=
  { s.complete with ctl := { s.ctl with cursorVisible := visible, cursorBlink := blink } }

/-- Rule R135. -/
def execCursor (visible blink : Bool) (s : State) : Result :=
  s.perform (.cursor visible blink) (cursorCheck s) (cursorEvents visible blink s) (cursorCommit visible blink)

end Sys2Proof.Machine
end

