-- ==== Sys2Proof/Machine/Glyph.lean ====
section
/-! DEFINITION. The operation create_char (rules R136, R137). -/

namespace Sys2Proof.Machine

def createCharCheck (slot : Int) (pattern : List Byte) (s : State) : Status := s.gate (checkChar slot pattern)

/-- Rule R137: the CGRAM address, the pattern bytes in index order, the cached DDRAM position again. -/
def createCharEvents (slot : Int) (pattern : List Byte) (s : State) : List Event :=
  instr s.cfg (cgramByte s.cfg (cgramAddr slot)) s.cfg.tShort
  ++ dataAll s.cfg pattern
  ++ positionEvents s.cfg s.col s.row

def createCharCommit (s : State) : State := s.complete

/-- Rules R136 and R137. -/
def execCreateChar (slot : Int) (pattern : List Byte) (s : State) : Result :=
  s.perform (.createChar slot pattern) (createCharCheck slot pattern s) (createCharEvents slot pattern s)
    createCharCommit

end Sys2Proof.Machine
end

