-- ==== Sys2Proof/Machine/Init.lean ====
section
/-! DEFINITION. The operation init (rules R111 to R123). -/

namespace Sys2Proof.Machine

/-- Rule R114: one forced function-set, the whole byte in 8-bit mode and its high nibble in 4-bit mode. -/
def forcedEvents (cfg : Cfg) (t : Nat) : List Event :=
  match cfg.mode with
  | .eightBit => instr cfg (force8Byte cfg) t
  | .fourBit => instrHi cfg (force8Byte cfg) t

/-- Rule R114: step 1. -/
def initStep1 (cfg : Cfg) : List Event :=
  forcedEvents cfg cfg.tReset1 ++ forcedEvents cfg cfg.tReset2 ++ forcedEvents cfg cfg.tReset3

/-- Rule R115: step 2. -/
def initStep2 (cfg : Cfg) : List Event :=
  match cfg.mode with
  | .eightBit => []
  | .fourBit => instrHi cfg (narrow4Byte cfg) cfg.tShort

/-- Rule R116: step 3. -/
def initStep3 (cfg : Cfg) : List Event := instr cfg (finalByte cfg) cfg.tShort

/-- Rule R117: step 4. -/
def initStep4 (cfg : Cfg) : List Event :=
  displayEvents cfg false false false
  ++ instr cfg (clearByte cfg) cfg.tLong
  ++ instr cfg (entryByte cfg true false) cfg.tShort
  ++ displayEvents cfg true false false

/-- Rule R118: the whole event list, which depends on CFG only. -/
def initEvents (cfg : Cfg) : List Event :=
  initStep1 cfg ++ (initStep2 cfg ++ initStep3 cfg) ++ initStep4 cfg

/-- Rule R113: entry. -/
def initEntry (s : State) : State :=
  { ((s.accept .init).enter .resetSequence).forgetCgram.expectForced with ctl := { s.ctl with initialized := false } }

/-- Rule R112 (t2), (t3): the transitions that fall after an event, by how many events have been emitted. -/
def initAfter (s : State) : State :=
  if s.seq = (initStep1 s.cfg).length then s.enter .functionSet
  else if s.seq = (initStep1 s.cfg ++ (initStep2 s.cfg ++ initStep3 s.cfg)).length then s.enter .displayConfigured
  else s

/-- Rule R120: completion. `backlight_on` keeps its value. -/
def initCommit (s : State) : State :=
  { s.complete with
    initState := .ready
    ctl := { s.ctl with
      initialized := true, displayOn := true, cursorVisible := false, cursorBlink := false
      entryIncrement := true, entryShift := false, currentCol := 0, currentRow := 0 } }

/-- Rule R111. -/
def execInit (s : State) : Result :=
  let afterStep1 := ((initEntry s).emitAll (initStep1 s.cfg)).enter .functionSet
  let afterStep3 := (afterStep1.emitAll (initStep2 s.cfg ++ initStep3 s.cfg)).enter .displayConfigured
  .next (initCommit (afterStep3.emitAll (initStep4 s.cfg)))

end Sys2Proof.Machine
end

