-- ==== Sys2Proof/Machine/Text.lean ====
section
/-! DEFINITION. The operations that send characters: write and write_char (rules R131, R132). -/

namespace Sys2Proof.Machine

def writeCheck (col row : Coord) (s : State) : Status :=
  s.gate (checkCoord s.cfg (resolve col s.col) (resolve row s.row))

/-- Rule R131: the address first, then one data transfer for each character kept. -/
def writeEvents (text : List Nat) (col row : Coord) (s : State) : List Event :=
  positionEvents s.cfg (resolve col s.col) (resolve row s.row)
  ++ dataAll s.cfg ((kept s.cfg text (resolve col s.col)).map lowByte)

def writeCommit (col row : Coord) (s : State) : State :=
  (s.setCursor (resolve col s.col) (resolve row s.row)).complete

/-- Rule R131. -/
def execWrite (text : List Nat) (col row : Coord) (s : State) : Result :=
  s.perform (.write text col row) (writeCheck col row s) (writeEvents text col row s) (writeCommit col row)

def writeCharCheck (s : State) : Status := s.gate .ok
def writeCharEvents (code : Byte) (s : State) : List Event := data s.cfg code
def writeCharCommit (s : State) : State := s.complete

/-- Rule R132. -/
def execWriteChar (code : Byte) (s : State) : Result :=
  s.perform (.writeChar code) (writeCharCheck s) (writeCharEvents code s) writeCharCommit

end Sys2Proof.Machine
end

