-- ==== Sys2Proof/Machine/Transfers.lean ====
section
/-! DEFINITION. The transfer kinds of the opcode table (formats LCD9 and LCD5), each the engine's primitive that emits it:
`instr`, `data` or `instr_hi` of rule R88 with the settle class of rule R106. One that the engine never emits is refused:
rules R72 and R107, and the ruling of U9. Log entries 6, 7, 8. -/

namespace Sys2Proof.Machine

/-- Rules R72 and R107, and U9: what is outside the inventory is refused. -/
def onlyIf (emitted : Bool) : Option Refusal := if emitted then none else some .neverEmitted

/-- Rule R87: a nibble-only form exists in 4-bit mode only. -/
def onlyFourBit (cfg : Cfg) : Option Refusal := if cfg.mode = .fourBit then none else some .nibbleInEightBitMode

/-! ### The place of a forced function-set -/

/-- What the data lines carry in a forced function-set (rule R114). -/
def forcedPattern (cfg : Cfg) : Byte :=
  match cfg.mode with
  | .eightBit => force8Byte cfg
  | .fourBit => (hiNibble (force8Byte cfg)).setWidth 8

/-- How many forced function-sets begin a reversed trace, that is, end the trace. Their settle waits are not looked at. -/
def forcedRun (cfg : Cfg) : List Event → Nat
  | .wait _ :: .e false :: .wait p :: .e true :: .data w v :: .ctrl false false :: rest =>
    if p = cfg.tPw ∧ w = cfg.dw ∧ v = forcedPattern cfg then forcedRun cfg rest + 1 else 0
  | _ => 0

/-- Rules R102, R106, R114, R189: the settle wait of a forced function-set is T_RESET1, T_RESET2 or T_RESET3 by its place in
its run of three, whatever the values of the three. The place is the number of forced function-sets that end the trace,
modulo three. DESIGN CHOICE; log entry 7. -/
def forcedWait (cfg : Cfg) (trace : List Event) : Nat :=
  match forcedRun cfg trace.reverse % 3 with
  | 0 => cfg.tReset1
  | 1 => cfg.tReset2
  | _ => cfg.tReset3

/-- The trace as it was when the operation in progress was accepted; of an idle engine, the whole trace. -/
def State.traceAtAcceptance (s : State) : List Event := s.trace.take (s.trace.length - s.seq)

/-! ### The LCD9 rows -/

def clearDisplayEvents (s : State) : List Event := instr s.cfg (clearByte s.cfg) s.cfg.tLong
/-- Rule R97. -/
def execClearDisplay (s : State) : Result := s.transfer .clearDisplay none (clearDisplayEvents s)

def returnHomeEvents (s : State) : List Event := instr s.cfg (homeByte s.cfg) s.cfg.tHome
/-- Rule R98. -/
def execReturnHome (s : State) : Result := s.transfer .returnHome none (returnHomeEvents s)

/-- Rules R72 and R99: increment and no shift only. -/
def entryModeSetRefusal (i sh : Bool) : Option Refusal := onlyIf (i && !sh)
def entryModeSetEvents (i sh : Bool) (s : State) : List Event := instr s.cfg (entryByte s.cfg i sh) s.cfg.tShort
/-- Rule R99. -/
def execEntryModeSet (i sh : Bool) (s : State) : Result :=
  s.transfer (.entryModeSet i sh) (entryModeSetRefusal i sh) (entryModeSetEvents i sh s)

def displayControlEvents (d c b : Bool) (s : State) : List Event := displayEvents s.cfg d c b
/-- Rule R100: all eight values can be emitted. -/
def execDisplayControl (d c b : Bool) (s : State) : Result :=
  s.transfer (.displayControl d c b) none (displayControlEvents d c b s)

/-- Rules R72 and R101: a display shift only. -/
def cursorDisplayShiftRefusal (sc : Bool) : Option Refusal := onlyIf sc
def cursorDisplayShiftEvents (sc rl : Bool) (s : State) : List Event := instr s.cfg (shiftByte s.cfg sc rl) s.cfg.tShort
/-- Rule R101. -/
def execCursorDisplayShift (sc rl : Bool) (s : State) : Result :=
  s.transfer (.cursorDisplayShift sc rl) (cursorDisplayShiftRefusal sc) (cursorDisplayShiftEvents sc rl s)

/-- Rule R102 (c): the fields of FINAL. -/
def isFinal (l n f : Bool) (cfg : Cfg) : Bool :=
  (l == decide (cfg.mode = .eightBit)) && (n == decide (2 ≤ cfg.rows)) && (f == cfg.font5x10)
/-- Rule R102 (a): the fields of FORCE8, which is a whole byte in 8-bit mode only. -/
def isForce8 (l n f : Bool) (cfg : Cfg) : Bool := decide (cfg.mode = .eightBit) && l && !n && !f
/-- Rules R72 and R107: FINAL, and FORCE8 in 8-bit mode. -/
def functionSetRefusal (l n f : Bool) (cfg : Cfg) : Option Refusal := onlyIf (isFinal l n f cfg || isForce8 l n f cfg)
/-- Rule R106: T_SHORT for FINAL, T_RESET1 to T_RESET3 for a forced send. Where the two are one byte (8-bit mode, one row,
5x8) it is taken as FINAL. DESIGN CHOICE; log entry 7. -/
def functionSetEvents (l n f : Bool) (s : State) : List Event :=
  instr s.cfg (functionByte s.cfg l n f)
    (if isFinal l n f s.cfg then s.cfg.tShort else forcedWait s.cfg s.traceAtAcceptance)
/-- Rule R102. -/
def execFunctionSet (l n f : Bool) (s : State) : Result :=
  s.transfer (.functionSet l n f) (functionSetRefusal l n f s.cfg) (functionSetEvents l n f s)

/-- Rules R72 and R103: a multiple of 8. -/
def setCgramAddrRefusal (a : BitVec 6) : Option Refusal := onlyIf (decide (a.toNat % 8 = 0))
def setCgramAddrEvents (a : BitVec 6) (s : State) : List Event := instr s.cfg (cgramByte s.cfg a) s.cfg.tShort
/-- Rule R103. -/
def execSetCgramAddr (a : BitVec 6) (s : State) : Result :=
  s.transfer (.setCgramAddr a) (setCgramAddrRefusal a) (setCgramAddrEvents a s)

/-- Rule R72: the addresses of the visible cells, `ROW_BASE[r] + c` for a row `r` and a column `c`. -/
def isCellAddress (cfg : Cfg) (a : Nat) : Bool :=
  cfg.rowBase.any (fun base => decide (base ≤ a) && decide ((a : Int) < base + cfg.cols))
/-- Rules R72 and R104: the address of a visible cell. -/
def setDdramAddrRefusal (a : BitVec 7) (cfg : Cfg) : Option Refusal := onlyIf (isCellAddress cfg a.toNat)
def setDdramAddrEvents (a : BitVec 7) (s : State) : List Event := instr s.cfg (ddramByte s.cfg a) s.cfg.tShort
/-- Rule R104. -/
def execSetDdramAddr (a : BitVec 7) (s : State) : Result :=
  s.transfer (.setDdramAddr a) (setDdramAddrRefusal a s.cfg) (setDdramAddrEvents a s)

def writeDataEvents (b : Byte) (s : State) : List Event := data s.cfg b
/-- Rule R105: data bytes are unrestricted. -/
def execWriteData (b : Byte) (s : State) : Result := s.transfer (.writeData b) none (writeDataEvents b s)

/-! ### The LCD5 rows -/

def force8NibbleEvents (s : State) : List Event :=
  instrHi s.cfg (force8Byte s.cfg) (forcedWait s.cfg s.traceAtAcceptance)
/-- Rules R87 and R114: 4-bit mode only. -/
def execForce8Nibble (s : State) : Result :=
  s.transfer .force8Nibble (onlyFourBit s.cfg) (force8NibbleEvents s)

def narrow4NibbleEvents (s : State) : List Event := instrHi s.cfg (narrow4Byte s.cfg) s.cfg.tShort
/-- Rules R87 and R115: 4-bit mode only. -/
def execNarrow4Nibble (s : State) : Result :=
  s.transfer .narrow4Nibble (onlyFourBit s.cfg) (narrow4NibbleEvents s)

end Sys2Proof.Machine
end

