-- ==== Sys2Proof/Machine/Dispatch.lean ====
section
/-! DEFINITION. exec: one arm per constructor of Instr, each a direct call of the instruction's meaning. -/

namespace Sys2Proof.Machine

def exec (i : Instr) (s : State) : Host.Outcome State Fault Refusal :=
  match i with
  | .init => Sys2Proof.Machine.execInit s
  | .clear => Sys2Proof.Machine.execClear s
  | .home => Sys2Proof.Machine.execHome s
  | .position col row => Sys2Proof.Machine.execPosition col row s
  | .write text col row => Sys2Proof.Machine.execWrite text col row s
  | .writeChar code => Sys2Proof.Machine.execWriteChar code s
  | .displayOnOff state => Sys2Proof.Machine.execDisplayOnOff state s
  | .backlight state => Sys2Proof.Machine.execBacklight state s
  | .createChar slot pattern => Sys2Proof.Machine.execCreateChar slot pattern s
  | .displayShift direction => Sys2Proof.Machine.execDisplayShift direction s
  | .cursor visible blink => Sys2Proof.Machine.execCursor visible blink s
  | .clearDisplay => Sys2Proof.Machine.execClearDisplay s
  | .returnHome => Sys2Proof.Machine.execReturnHome s
  | .entryModeSet inc sh => Sys2Proof.Machine.execEntryModeSet inc sh s
  | .displayControl d c b => Sys2Proof.Machine.execDisplayControl d c b s
  | .cursorDisplayShift sc rl => Sys2Proof.Machine.execCursorDisplayShift sc rl s
  | .functionSet l n f => Sys2Proof.Machine.execFunctionSet l n f s
  | .setCgramAddr a => Sys2Proof.Machine.execSetCgramAddr a s
  | .setDdramAddr a => Sys2Proof.Machine.execSetDdramAddr a s
  | .writeData b => Sys2Proof.Machine.execWriteData b s
  | .force8Nibble => Sys2Proof.Machine.execForce8Nibble s
  | .narrow4Nibble => Sys2Proof.Machine.execNarrow4Nibble s

end Sys2Proof.Machine
end

