-- ==== Sys2Proof/Machine/Sequencer.lean ====
section
/-! DEFINITION. The sequencer at its own grain (rule R25): accepting an operation, then one event a step, then its state
writes. `exec` runs the same operation as one step; log entry 9. -/

namespace Sys2Proof.Machine

/-- The check of an instruction (rules R126, R155). init and the transfers make none. -/
def checkOf (i : Instr) (s : State) : Status :=
  match i with
  | .init => .ok
  | .clear => clearCheck s
  | .home => homeCheck s
  | .position col row => positionCheck col row s
  | .write _ col row => writeCheck col row s
  | .writeChar _ => writeCharCheck s
  | .displayOnOff _ => displayOnOffCheck s
  | .backlight _ => backlightCheck s
  | .createChar slot pattern => createCharCheck slot pattern s
  | .displayShift _ => displayShiftCheck s
  | .cursor _ _ => cursorCheck s
  | .clearDisplay | .returnHome | .entryModeSet _ _ | .displayControl _ _ _ | .cursorDisplayShift _ _
  | .functionSet _ _ _ | .setCgramAddr _ | .setDdramAddr _ | .writeData _ | .force8Nibble | .narrow4Nibble => .ok

/-- Rule R25: an instruction's event list, a function of CFG, the state at acceptance and the operands. What it reads of
the state does not change while the instruction runs. -/
def eventsOf (i : Instr) (s : State) : List Event :=
  match i with
  | .init => initEvents s.cfg
  | .clear => clearEvents s
  | .home => homeEvents s
  | .position col row => positionEvents s.cfg col row
  | .write text col row => writeEvents text col row s
  | .writeChar code => writeCharEvents code s
  | .displayOnOff state => displayOnOffEvents state s
  | .backlight state => backlightEvents state s
  | .createChar slot pattern => createCharEvents slot pattern s
  | .displayShift direction => displayShiftEvents direction s
  | .cursor visible blink => cursorEvents visible blink s
  | .clearDisplay => clearDisplayEvents s
  | .returnHome => returnHomeEvents s
  | .entryModeSet inc sh => entryModeSetEvents inc sh s
  | .displayControl d c b => displayControlEvents d c b s
  | .cursorDisplayShift sc rl => cursorDisplayShiftEvents sc rl s
  | .functionSet l n f => functionSetEvents l n f s
  | .setCgramAddr a => setCgramAddrEvents a s
  | .setDdramAddr a => setDdramAddrEvents a s
  | .writeData b => writeDataEvents b s
  | .force8Nibble => force8NibbleEvents s
  | .narrow4Nibble => narrow4NibbleEvents s

/-- Rule R25: the state writes after the last event, STATUS, BUSY and SEQ among them. -/
def commitOf (i : Instr) (s : State) : State :=
  match i with
  | .init => initCommit s
  | .clear => clearCommit s
  | .home => homeCommit s
  | .position col row => positionCommit col row s
  | .write _ col row => writeCommit col row s
  | .writeChar _ => writeCharCommit s
  | .displayOnOff state => displayOnOffCommit state s
  | .backlight state => backlightCommit state s
  | .createChar _ _ => createCharCommit s
  | .displayShift _ => displayShiftCommit s
  | .cursor visible blink => cursorCommit visible blink s
  | .clearDisplay | .returnHome | .entryModeSet _ _ | .displayControl _ _ _ | .cursorDisplayShift _ _
  | .functionSet _ _ _ | .setCgramAddr _ | .setDdramAddr _ | .writeData _ | .force8Nibble | .narrow4Nibble => s.idle

/-- What acceptance does beside raising BUSY: init enters RESET_SEQUENCE (rule R113). -/
def entryOf (i : Instr) (s : State) : State :=
  match i with
  | .init => initEntry s
  | .clear | .home | .position _ _ | .write _ _ _ | .writeChar _ | .displayOnOff _ | .backlight _
  | .createChar _ _ | .displayShift _ | .cursor _ _
  | .clearDisplay | .returnHome | .entryModeSet _ _ | .displayControl _ _ _ | .cursorDisplayShift _ _
  | .functionSet _ _ _ | .setCgramAddr _ | .setDdramAddr _ | .writeData _ | .force8Nibble | .narrow4Nibble =>
    s.accept i

/-- The transitions of INIT_STATE that fall after an event of the instruction (rule R112). -/
def afterEvent (i : Instr) (s : State) : State :=
  match i with
  | .init => initAfter s
  | .clear | .home | .position _ _ | .write _ _ _ | .writeChar _ | .displayOnOff _ | .backlight _
  | .createChar _ _ | .displayShift _ | .cursor _ _
  | .clearDisplay | .returnHome | .entryModeSet _ _ | .displayControl _ _ _ | .cursorDisplayShift _ _
  | .functionSet _ _ _ | .setCgramAddr _ | .setDdramAddr _ | .writeData _ | .force8Nibble | .narrow4Nibble => s

/-- Why an engine with this configuration never makes such a transfer, if it does not: the nibble-only forms in 8-bit mode
(rule R87) and the bytes outside the inventory (rules R72 and R107). No operation is refused. -/
def refusalOf (i : Instr) (cfg : Cfg) : Option Refusal :=
  match i with
  | .force8Nibble | .narrow4Nibble => onlyFourBit cfg
  | .entryModeSet inc sh => entryModeSetRefusal inc sh
  | .cursorDisplayShift sc _ => cursorDisplayShiftRefusal sc
  | .functionSet l n f => functionSetRefusal l n f cfg
  | .setCgramAddr a => setCgramAddrRefusal a
  | .setDdramAddr a => setDdramAddrRefusal a cfg
  | .init | .clear | .home | .position _ _ | .write _ _ _ | .writeChar _ | .displayOnOff _ | .backlight _
  | .createChar _ _ | .displayShift _ | .cursor _ _
  | .clearDisplay | .returnHome | .displayControl _ _ _ | .writeData _ => none

/-- Acceptance of an instruction: a failing check is raised at once, "before SEQ leaves 0" (rule R25). -/
def startOp (i : Instr) (s : State) : Result :=
  match refusalOf i s.cfg with
  | some r => .refused r
  | none => if checkOf i s = .ok then .next (entryOf i s) else .next (s.raise (checkOf i s))

/-- One micro-step: a busy engine emits the next event of its list, or performs the state writes after the last one. An
idle engine does nothing (rule R176). BUSY with no operation on the port, which no run reaches, falls idle (log entry
23). -/
def State.advance (s : State) : State :=
  if s.busy then
    match s.op with
    | none => s.idle
    | some i =>
      match (eventsOf i s)[s.seq]? with
      | some ev => afterEvent i (s.emit ev)
      | none => commitOf i s
  else s

/-- `n` micro-steps. -/
def State.advanceN : Nat → State → State
  | 0, s => s
  | n + 1, s => (s.advance).advanceN n

/-- How many micro-steps end the operation in progress: the events left, and its state writes. -/
def State.remaining (s : State) : Nat :=
  if s.busy then
    match s.op with
    | none => 1
    | some i => (eventsOf i s).length - s.seq + 1
  else 0

/-- The engine run until it is idle. -/
def State.drain (s : State) : State := s.advanceN s.remaining

end Sys2Proof.Machine
end

