-- ==== Sys2Proof/Machine/Port.lean ====
section
/-! DEFINITION. The host port: what each of the host's moves does (rules R170, R171), and the placing of a table word where
the next step takes its instruction from. -/

namespace Sys2Proof.Machine

/-- What the decoder rejects, as a refusal. -/
def undecodable : DecodeError → Refusal
  | .reservedOpcode => .reservedOpcode
  | .shortPayload => .shortPayload
  | .noTransfer => .noTransfer

/-- Presenting: refused while BUSY = 1 (rule R170), otherwise decoded and run. -/
def present (run : Instr → State → Result) (x : Encoded) (s : State) : Result :=
  if s.busy then .refused .presentedWhileBusy
  else
    match decode s.cfg.cpWidth x with
    | .ok i => run i s
    | .error err => .refused (undecodable err)

/-- Rule R171: one move of the host. -/
def hostMove (m : Input) (s : State) : Result :=
  match m with
  | .operate x => present exec x s
  | .start x => present startOp x s
  | .wait => .next s.advance
  | .construct cfg => if cfg.wf then .next (s.reconstruct cfg) else .fault .configurationError
  | .powerDisplay => .next s.loseSink

/-- One step of the machine: the host's next move is taken off the list and made. With no move left the host waits. A
state whose CFG is ill-formed is no engine (rule R17). -/
def portStep (s : State) : Result :=
  if s.cfg.wf then
    match s.inputs with
    | [] => .next s.advance
    | m :: rest => hostMove m { s with inputs := rest }
  else .refused .illFormedConfig

/-- A word of the opcode table as the host's next move; a word that is no presented form is presented as the all-zero
transfer, which is refused. -/
def placeWord (s : State) (nbits w : Nat) : State :=
  { s with inputs := .operate ((tableWord nbits w).getD (.lcd9 0)) :: s.inputs }

end Sys2Proof.Machine
end

