-- ==== Sys2Proof/Machine/Step.lean ====
section
/-! DEFINITION. One step of the machine, and a state in which the next step runs a given word of the opcode table. -/

namespace Sys2Proof.Machine

/-- One step: the host's next move (rule R171). -/
def step : State → Host.Outcome State Fault Refusal := portStep

/-- The state with a word of the opcode table as the host's next move, to be run as one step (log entry 5). -/
def State.withFetchWord (s : State) (nbits w : Nat) : State := placeWord s nbits w

end Sys2Proof.Machine
end

