-- ==== Sys2Proof/Machine/Gpio.lean ====
section
/-! DEFINITION. Below the Pin Interface (rules R82, R90, R166): which collaborator calls realise an event. The order of the
line writes inside one event, and whether an unchanged line is rewritten, are left open (GPIO_ORDER, log entry 22). -/

namespace Sys2Proof.Machine

/-- Rule R166: the calls of the collaborator. -/
inductive GpioCall where
  | configureAsOutput (pin : Nat)
  | writeDigital (pin : Nat) (level : Bool)
  | sleepMicroseconds (n : Nat)
  | sleepMilliseconds (n : Nat)
deriving DecidableEq, Repr

/-- Rule R14: the pin of a line, if the configuration has it. -/
def Line.pin (cfg : Cfg) : Line → Option Nat
  | .rs => some cfg.rs
  | .rw => cfg.rw
  | .e => some cfg.e
  | .d i => if 8 - cfg.dw ≤ i then cfg.dataLines[i - (8 - cfg.dw)]? else none
  | .backlight => cfg.backlightPin

/-- Rule R90: the line writes of an event, one for each line it sets. -/
def lineWrites (cfg : Cfg) : Event → List (Nat × Bool)
  | .ctrl rs rw => (cfg.rs, rs) :: cfg.rw.toList.map (fun p => (p, rw))
  | .data _ v => cfg.dataLines.mapIdx (fun k p => (p, v.getLsbD k))
  | .e level => [(cfg.e, level)]
  | .bl level => cfg.backlightPin.toList.map (fun p => (p, level))
  | .wait _ => []
  | .cfgOut _ => []

/-- The levels of the pins, by identifier. -/
abbrev Levels := Nat → Bool

/-- Rule R90: `calls` are line writes of the event in some order, each line that changes among them. -/
def writesRealise (levels : Levels) (writes : List (Nat × Bool)) (calls : List GpioCall) : Prop :=
  ∃ made : List (Nat × Bool),
    calls.Perm (made.map (fun w => GpioCall.writeDigital w.1 w.2))
    ∧ made.Sublist writes
    ∧ ∀ w ∈ writes, w ∉ made → levels w.1 = w.2

/-- The microseconds that a list of calls sleeps. -/
def sleptMicroseconds : List GpioCall → Nat
  | [] => 0
  | .sleepMicroseconds n :: rest => n + sleptMicroseconds rest
  | .sleepMilliseconds n :: rest => 1000 * n + sleptMicroseconds rest
  | .configureAsOutput _ :: rest => sleptMicroseconds rest
  | .writeDigital _ _ :: rest => sleptMicroseconds rest

/-- Whether a call is a sleep. -/
def GpioCall.isSleep : GpioCall → Bool
  | .sleepMicroseconds _ => true
  | .sleepMilliseconds _ => true
  | .configureAsOutput _ => false
  | .writeDigital _ _ => false

/-- Rules R82 and R90: the call lists that realise an event at given pin levels. -/
def realises (cfg : Cfg) (levels : Levels) (ev : Event) (calls : List GpioCall) : Prop :=
  match ev with
  | .cfgOut line => calls = (line.pin cfg).toList.map GpioCall.configureAsOutput
  | .wait n => (∀ c ∈ calls, c.isSleep = true) ∧ n ≤ 1000 * sleptMicroseconds calls
  | .ctrl _ _ | .data _ _ | .e _ | .bl _ => writesRealise levels (lineWrites cfg ev) calls

/-- Rule R82: the reference realisation of a wait, in microseconds. -/
def referenceSleep (n : Nat) : Nat := (n + 999) / 1000

/-- Rule R90: the reference realisation, lines in ascending order. -/
def referenceCalls (cfg : Cfg) : Event → List GpioCall
  | .cfgOut line => (line.pin cfg).toList.map GpioCall.configureAsOutput
  | .wait n => [.sleepMicroseconds (referenceSleep n)]
  | .ctrl rs rw => (lineWrites cfg (.ctrl rs rw)).map (fun w => GpioCall.writeDigital w.1 w.2)
  | .data w v => (lineWrites cfg (.data w v)).map (fun w => GpioCall.writeDigital w.1 w.2)
  | .e level => (lineWrites cfg (.e level)).map (fun w => GpioCall.writeDigital w.1 w.2)
  | .bl level => (lineWrites cfg (.bl level)).map (fun w => GpioCall.writeDigital w.1 w.2)

/-- Rule R166: a call takes effect before it returns. -/
def applyCall (levels : Levels) : GpioCall → Levels
  | .writeDigital pin level => fun p => if p = pin then level else levels p
  | .configureAsOutput _ => levels
  | .sleepMicroseconds _ => levels
  | .sleepMilliseconds _ => levels

/-- Calls in order. -/
def applyCalls (levels : Levels) (calls : List GpioCall) : Levels := calls.foldl applyCall levels

/-- Rule R27: the latch values are the line levels, for every line the configuration has. -/
def shows (cfg : Cfg) (levels : Levels) (l : Latches) : Prop :=
  levels cfg.rs = l.rs
  ∧ levels cfg.e = l.e
  ∧ (∀ p, cfg.rw = some p → l.rw = some (levels p))
  ∧ (∀ p, cfg.backlightPin = some p → l.bl = some (levels p))
  ∧ (∀ k p, cfg.dataLines[k]? = some p → levels p = l.d.getLsbD k)

end Sys2Proof.Machine
end

