-- ==== Sys2Proof/Machine/Reader.lean ====
section
/-! DEFINITION. The textual syntax of programs (rules R73, R74): a line of program text as an operation, a header line as a
configuration, a program as the host's moves. Log entry 25. -/

namespace Sys2Proof.Machine

/-- A token of a program line. -/
inductive Token where
  | word (chars : List Char)
  | quoted (codePoints : List Nat)
  | punct (c : Char)
deriving DecidableEq, Repr

/-- Where the scanner is: between tokens, inside a word, inside a text literal. The characters so far are reversed. -/
inductive Scan where
  | between
  | inWord (acc : List Char)
  | inText (acc : List Nat)
deriving DecidableEq, Repr

def isWordChar (c : Char) : Bool := c.isAlphanum || c == '_' || c == '-' || c == '.'

def isPunct (c : Char) : Bool := c == '(' || c == ')' || c == ',' || c == '=' || c == '[' || c == ']'

/-- The tokens of a line. `#` begins a comment (rule R73). Only the space is blank, a text literal has no escapes, and a
character that belongs to no token makes the line none (log entry 25). -/
def scanLine : Scan → List Char → Option (List Token)
  | .between, [] => some []
  | .inWord acc, [] => some [.word acc.reverse]
  | .inText _, [] => none
  | .inText acc, c :: cs =>
    if c == '"' then (scanLine .between cs).map (fun ts => .quoted acc.reverse :: ts)
    else scanLine (.inText (c.toNat :: acc)) cs
  | .between, c :: cs =>
    if c == '#' then some []
    else if c == ' ' then scanLine .between cs
    else if c == '"' then scanLine (.inText []) cs
    else if isPunct c then (scanLine .between cs).map (fun ts => .punct c :: ts)
    else if isWordChar c then scanLine (.inWord [c]) cs
    else none
  | .inWord acc, c :: cs =>
    if isWordChar c then scanLine (.inWord (c :: acc)) cs
    else if c == '#' then some [.word acc.reverse]
    else if c == ' ' then (scanLine .between cs).map (fun ts => .word acc.reverse :: ts)
    else if isPunct c then (scanLine .between cs).map (fun ts => .word acc.reverse :: .punct c :: ts)
    else none

/-- A digit's value in a base up to 16. -/
def digit (base : Nat) (c : Char) : Option Nat :=
  let v :=
    if '0' ≤ c && c ≤ '9' then c.toNat - '0'.toNat
    else if 'a' ≤ c && c ≤ 'f' then c.toNat - 'a'.toNat + 10
    else if 'A' ≤ c && c ≤ 'F' then c.toNat - 'A'.toNat + 10
    else 16
  if v < base then some v else none

/-- Digits as a number, the first the most significant. -/
def digits (base : Nat) : Nat → List Char → Option Nat
  | acc, [] => some acc
  | acc, c :: cs =>
    match digit base c with
    | some d => digits base (acc * base + d) cs
    | none => none

/-- Rule R10: hex literals are `0x..`, others decimal. -/
def natural (chars : List Char) : Option Nat :=
  match chars with
  | [] => none
  | '0' :: 'x' :: c :: cs => digits 16 0 (c :: cs)
  | c :: cs => digits 10 0 (c :: cs)

/-- An integer operand. -/
def integer (chars : List Char) : Option Int :=
  match chars with
  | '-' :: cs => (natural cs).map (fun n => -(n : Int))
  | cs => (natural cs).map (fun n => (n : Int))

/-- A byte operand. -/
def byteWord (chars : List Char) : Option Byte :=
  match natural chars with
  | some n => if n < 256 then some (BitVec.ofNat 8 n) else none
  | none => none

/-- Rule R73: `true` and `false`. -/
def boolWord (chars : List Char) : Option Bool :=
  match String.ofList chars with
  | "true" => some true
  | "false" => some false
  | _ => none

/-- Rule R73: `LEFT` and `RIGHT`. -/
def directionWord (chars : List Char) : Option Direction :=
  match String.ofList chars with
  | "LEFT" => some .left
  | "RIGHT" => some .right
  | _ => none

/-- A coordinate operand: an integer or `current` (rule R73's quoted signature). -/
def coordWord (chars : List Char) : Option Coord :=
  match String.ofList chars with
  | "current" => some .current
  | _ => (integer chars).map Coord.at

/-- An argument of a call. -/
inductive Arg where
  | word (chars : List Char)
  | text (codePoints : List Nat)
  | bytes (words : List (List Char))
  | named (key : List Char) (chars : List Char)
deriving DecidableEq, Repr

/-- What may come next inside a call's parentheses. -/
inductive Expect where
  /-- The first argument, or the end of the call. -/
  | firstArg
  /-- An argument, after a comma. -/
  | arg
  /-- A comma or the end of the call, after an argument. -/
  | argEnd
  /-- The first element of a bracketed list, or its end. -/
  | firstItem
  /-- An element, after a comma; the elements so far are reversed. -/
  | item (acc : List (List Char))
  /-- A comma or the end of the list, after an element. -/
  | itemEnd (acc : List (List Char))
deriving DecidableEq, Repr

/-- The arguments up to the closing parenthesis, which ends the line. Commas stand between arguments and between the
elements of a list, one each, and nowhere else. DESIGN CHOICE, safe; log entry 25. -/
def parseArgs : Expect → List Token → Option (List Arg)
  | .firstArg, [.punct ')'] => some []
  | .argEnd, [.punct ')'] => some []
  | .argEnd, .punct ',' :: ts => parseArgs .arg ts
  | .firstArg, .quoted cps :: ts => (parseArgs .argEnd ts).map (fun as => .text cps :: as)
  | .arg, .quoted cps :: ts => (parseArgs .argEnd ts).map (fun as => .text cps :: as)
  | .firstArg, .word k :: .punct '=' :: .word v :: ts => (parseArgs .argEnd ts).map (fun as => .named k v :: as)
  | .arg, .word k :: .punct '=' :: .word v :: ts => (parseArgs .argEnd ts).map (fun as => .named k v :: as)
  | .firstArg, .word w :: ts => (parseArgs .argEnd ts).map (fun as => .word w :: as)
  | .arg, .word w :: ts => (parseArgs .argEnd ts).map (fun as => .word w :: as)
  | .firstArg, .punct '[' :: ts => parseArgs .firstItem ts
  | .arg, .punct '[' :: ts => parseArgs .firstItem ts
  | .firstItem, .punct ']' :: ts => (parseArgs .argEnd ts).map (fun as => .bytes [] :: as)
  | .firstItem, .word w :: ts => parseArgs (.itemEnd [w]) ts
  | .item acc, .word w :: ts => parseArgs (.itemEnd (w :: acc)) ts
  | .itemEnd acc, .punct ',' :: ts => parseArgs (.item acc) ts
  | .itemEnd acc, .punct ']' :: ts => (parseArgs .argEnd ts).map (fun as => .bytes acc.reverse :: as)
  | _, _ => none

/-- A call's name and arguments. -/
def parseCall : List Token → Option (List Char × List Arg)
  | .word name :: .punct '(' :: ts => (parseArgs .firstArg ts).map (fun as => (name, as))
  | _ => none

/-- The coordinates of write from two optional words, *current* where one is not given (rule R74 (a)). -/
def coordPair (col row : Option (List Char)) : Option (Coord × Coord) :=
  match (col.map coordWord).getD (some .current), (row.map coordWord).getD (some .current) with
  | some c, some r => some (c, r)
  | _, _ => none

/-- Rules R73 and R74 (a): the arguments of write after its text: `col` and `row` by keyword in either order, each at most
once, or by position in the order of the signature, positions first. Any other keyword or argument reads as nothing. DESIGN
CHOICE, safe; log entry 25. -/
def coordArgs (args : List Arg) : Option (Coord × Coord) :=
  match args with
  | [] => coordPair none none
  | [.word c] => coordPair (some c) none
  | [.word c, .word r] => coordPair (some c) (some r)
  | [.word c, .named k r] => if String.ofList k = "row" then coordPair (some c) (some r) else none
  | [.named k v] =>
    if String.ofList k = "col" then coordPair (some v) none
    else if String.ofList k = "row" then coordPair none (some v)
    else none
  | [.named k v, .named l u] =>
    if String.ofList k = "col" ∧ String.ofList l = "row" then coordPair (some v) (some u)
    else if String.ofList k = "row" ∧ String.ofList l = "col" then coordPair (some u) (some v)
    else none
  | _ => none

/-- An operation by its name and arguments (rules R73, R74). -/
def operationOf (name : List Char) (args : List Arg) : Option Instr :=
  match String.ofList name, args with
  | "init", [] => some .init
  | "clear", [] => some .clear
  | "home", [] => some .home
  | "position", [.word c, .word r] =>
    match integer c, integer r with
    | some col, some row => some (.position col row)
    | _, _ => none
  | "write", .text cps :: rest => (coordArgs rest).map (fun (col, row) => .write cps col row)
  | "write_char", [.word c] => (byteWord c).map Instr.writeChar
  | "display_on_off", [.word v] => (boolWord v).map Instr.displayOnOff
  | "backlight", [.word v] => (boolWord v).map Instr.backlight
  | "create_char", [.word s, .bytes ws] =>
    match integer s, ws.mapM byteWord with
    | some slot, some pattern => some (.createChar slot pattern)
    | _, _ => none
  | "display_shift", [.word d] => (directionWord d).map Instr.displayShift
  | "cursor", [.word v, .word b] =>
    match boolWord v, boolWord b with
    | some visible, some blink => some (.cursor visible blink)
    | _, _ => none
  | _, _ => none

/-- The tokens of one call as an operation. -/
def callOf (ts : List Token) : Option Instr :=
  match parseCall ts with
  | some (name, args) => operationOf name args
  | none => none

/-- One program line as an operation. A blank or comment-only line is none. -/
def readOperation (line : String) : Option Instr := (scanLine .between line.toList).bind callOf

/-- The operations of program lines (rule R73: one a line). A line with no token, blank or a comment alone, is passed over;
one line that reads as nothing makes them all read as nothing. DESIGN CHOICE, safe; log entry 25. -/
def readOperations : List String → Option (List Instr)
  | [] => some []
  | line :: lines =>
    match scanLine .between line.toList with
    | none => none
    | some [] => readOperations lines
    | some (t :: ts) =>
      match callOf (t :: ts), readOperations lines with
      | some i, some is => some (i :: is)
      | _, _ => none

/-- The value of a key of the header line. -/
def headerValue (key : String) : List Arg → Option (List Char)
  | [] => none
  | .named k v :: rest => if String.ofList k = key then some v else headerValue key rest
  | .word _ :: rest => headerValue key rest
  | .text _ :: rest => headerValue key rest
  | .bytes _ :: rest => headerValue key rest

/-- Rule R73: `yes` or `no`, with the pin that stands for `yes`. -/
def optionalPin (pin : Nat) (chars : List Char) : Option (Option Nat) :=
  match String.ofList chars with
  | "yes" => some (some pin)
  | "no" => some none
  | _ => none

/-- Rule R73: `mode=4` or `mode=8`. -/
def modeLines (chars : List Char) : Option (List Nat) :=
  match String.ofList chars with
  | "4" => some [10, 11, 12, 13]
  | "8" => some [10, 11, 12, 13, 14, 15, 16, 17]
  | _ => none

/-- The header line as a configuration at the default parameters: the five keys of rule R73, each once, in any order, and
nothing else. The header names no pins, so distinct ones are chosen (rule R14: they are only compared for equality). DESIGN
CHOICE, safe; log entry 25. -/
def readConfig (line : String) : Option Cfg :=
  match scanLine .between line.toList with
  | some ts =>
    match parseCall ts with
    | some (name, args) =>
      if String.ofList name = "config" ∧ args.length = 5 then
        match headerValue "cols" args, headerValue "rows" args, headerValue "mode" args, headerValue "rw" args,
            headerValue "backlight" args with
        | some c, some r, some m, some w, some b =>
          match integer c, integer r, modeLines m, optionalPin 7 w, optionalPin 8 b with
          | some cols, some rows, some lines, some rw, some bl => some (Cfg.make cols rows 1 2 lines rw bl)
          | _, _, _, _, _ => none
        | _, _, _, _, _ => none
      else none
    | none => none
  | none => none

/-- Rule R73: a program is its header and one operation a line; run, it is the host constructing the engine and then
presenting each operation. The spec does not say how an operation is presented whose operands the command word or its
payload cannot hold (`position(65536, 0)`, a pattern of 264 bytes): a program with such a line reads as nothing. DESIGN
CHOICE, safe; log entry 25. -/
def readProgram (header : String) (lines : List String) : Option (List Input) :=
  match readConfig header, readOperations lines with
  | some cfg, some ops =>
    if ops.all (Instr.wellFormed cfg.cpWidth) then
      some (.construct cfg :: ops.map (fun i => .operate (encode cfg.cpWidth i)))
    else none
  | _, _ => none

end Sys2Proof.Machine
end

