-- ==== Sys2Proof/Machine/View.lean ====
section
/-! DEFINITION. What is read off a trace: the latched view (rule R92) and the counts of rule R91. -/

namespace Sys2Proof.Machine

/-- Rule R92: what the sink sees, a latched pulse or a settle gap. -/
inductive Seen where
  | pulse (rs : Bool) (rw : Option Bool) (d : Byte)
  | gap (n : Nat)
deriving DecidableEq, Repr

/-- Rule R92: the latched view of a trace segment, the latches tracked from their levels before it. -/
def latchedView (cfg : Cfg) (l : Latches) : List Event → List Seen
  | [] => []
  | ev :: rest =>
    let later := latchedView cfg (l.apply cfg ev) rest
    match ev with
    | .e false => if l.e then .pulse l.rs l.rw l.d :: later else later
    | .wait n => if l.e then later else .gap n :: later
    | .e true => later
    | .ctrl _ _ => later
    | .data _ _ => later
    | .bl _ => later
    | .cfgOut _ => later

/-- Rule R91: the number of enable pulses of a segment. -/
def pulses (evs : List Event) : Nat := evs.countP (fun ev => ev == .e true)

/-- Whether the event begins a data transfer: `CTRL(1, _)`. -/
def beginsData : Event → Bool
  | .ctrl rs _ => rs
  | .data _ _ | .e _ | .wait _ | .bl _ | .cfgOut _ => false

/-- Rule R91: the number of bytes sent with RS asserted. -/
def dataTransfers (evs : List Event) : Nat := evs.countP beginsData

/-- How long a segment waits at least, in nanoseconds (rule R82). -/
def waitTotal : List Event → Nat
  | [] => 0
  | .wait n :: rest => n + waitTotal rest
  | .ctrl _ _ :: rest => waitTotal rest
  | .data _ _ :: rest => waitTotal rest
  | .e _ :: rest => waitTotal rest
  | .bl _ :: rest => waitTotal rest
  | .cfgOut _ :: rest => waitTotal rest

/-- What an outcome appended to the trace of the state it started from. -/
def appended (s : State) : Result → List Event
  | .next t => t.trace.drop s.trace.length
  | .fault _ => []
  | .refused _ => []

end Sys2Proof.Machine
end

