-- ==== Sys2Proof/Safety.lean ====
section
/-! DEFINITION. What the claims call a good state: the invariants of the idle engine (rule R34), the canonical memories, and
a sink in step with the engine. -/

namespace Sys2Proof.Machine

/-- Rule R34 (a) to (g) and rules R25, R26, R27: what holds whenever BUSY = 0. -/
structure State.IdleInv (s : State) : Prop where
  idle : s.busy = false
  seq : s.seq = 0
  op : s.op = none
  cfg : s.cfg.wf = true
  initialized : s.ctl.initialized = decide (s.initState = .ready)
  initState : s.initState = .unpowered ∨ s.initState = .ready
  enable : s.latches.e = false
  col : s.col < s.cfg.cols
  row : s.row < s.cfg.rows
  entryMode : s.initState = .ready → s.ctl.entryIncrement = true ∧ s.ctl.entryShift = false
  backlight : s.latches.bl = if s.cfg.hasBl then some (backlightLevel s.cfg s.ctl.backlightOn) else none
  rw : s.latches.rw = if s.cfg.hasRw then some false else none
  data : s.latches.d.toNat < 2 ^ s.cfg.dw
  status : s.status ≠ .configurationError

/-- The invariant of the machine: the engine, run until the operation in progress ends, is a good idle engine. -/
def State.Inv (s : State) : Prop := s.cfg.wf = true ∧ s.drain.IdleInv

/-- The canonical form of the sink's memories: 128 cells of 8 bits and 64 cells of 5 bits (rule R55). -/
def State.memoryWf (s : State) : Bool := Memory.wf 128 8 s.sink.ddram && Memory.wf 64 5 s.sink.cgram

/-- No read is ever asked of the display: no `CTRL(_, 1)` (rules R34 (g), R44). -/
def neverReads (evs : List Event) : Bool :=
  evs.all (fun ev => match ev with
    | .ctrl _ rw => !rw
    | .data _ _ | .e _ | .wait _ | .bl _ | .cfgOut _ => true)

/-- The sink takes the engine's transfers as the engine means them: it is known, its interface has the engine's width and no
nibble is pending. -/
structure Sink.inStep (cfg : Cfg) (sk : Sink) : Prop where
  known : sk.knowledge = .known
  wide : sk.wide = decide (cfg.mode = .eightBit)
  half : sk.half = none

/-- The sink agrees with the engine (rules R54 (b), R187): in step, in DDRAM-address mode, entry mode increment and no
shift, and every flag that the Controller State shadows as the shadow says. -/
structure State.Synced (s : State) : Prop where
  bytes : s.cfg.standardBytes = true
  inStep : s.sink.inStep s.cfg
  target : s.sink.target = .ddram
  increment : s.sink.id = true
  noShift : s.sink.s = false
  display : s.sink.d = s.ctl.displayOn
  cursorShown : s.sink.c = s.ctl.cursorVisible
  blink : s.sink.b = s.ctl.cursorBlink
  lines : s.sink.n = decide (2 ≤ s.cfg.rows)
  font : s.sink.f = s.cfg.font5x10

/-- `t` is `s` after the events `evs`, idle again: they are what the trace gained, the latches are what they leave, and
CFG and the host's coming moves are untouched. -/
structure State.Ran (s t : State) (evs : List Event) : Prop where
  trace : t.trace = s.trace ++ evs
  latches : t.latches = evs.foldl (Latches.apply s.cfg) s.latches
  busy : t.busy = false
  seq : t.seq = 0
  op : t.op = none
  cfg : t.cfg = s.cfg
  inputs : t.inputs = s.inputs

/-- Rule R156: `s` after a failed operation, only STATUS written. -/
def State.failedWith (s : State) (code : Status) : State :=
  { s with status := code, busy := false, seq := 0, op := none }

/-- Rules R84 and R89: the segment is a sequence of whole transfers and backlight events. Every enable pulse is E(1), one
WAIT(T_PW), E(0); a transfer has one pulse or two with nothing between them; exactly one settle WAIT follows it. -/
def wellTimed (cfg : Cfg) : List Event → Bool
  | [] => true
  | .bl _ :: rest => wellTimed cfg rest
  | .ctrl _ _ :: .data _ _ :: .e true :: .wait p :: .e false :: .wait _ :: rest =>
    decide (p = cfg.tPw) && wellTimed cfg rest
  | .ctrl _ _ :: .data _ _ :: .e true :: .wait p :: .e false :: .data _ _ :: .e true :: .wait q :: .e false
      :: .wait _ :: rest => decide (p = cfg.tPw) && decide (q = cfg.tPw) && wellTimed cfg rest
  | _ => false

end Sys2Proof.Machine
end

