-- ==== Sys2Proof/Certificates/Slice0/Obligations.lean ====
section
/-! DEFINITION. The statements for the provers. Each docstring names the rules of spec/ it formalises, and the log entry
where it rests on a choice of the model. -/

open Sys2Proof Sys2Proof.Machine

/-! ### Reset, construction, configuration -/

/-- Rule R17: construction fails with ConfigurationError exactly when (a), (b), (c) or (d) holds, and an engine with an
ill-formed CFG is refused. -/
def Obligations.ConstructionRejectsIllFormedConfig : Prop :=
  (∀ (s : State) (cfg : Cfg) (rest : List Input), s.cfg.wf = true → s.inputs = .construct cfg :: rest →
    (step s = .fault .configurationError ↔
      (cfg.dataLines.length ≠ 4 ∧ cfg.dataLines.length ≠ 8)
      ∨ ¬ ([cfg.rs, cfg.e] ++ cfg.rw.toList ++ cfg.dataLines ++ cfg.backlightPin.toList).Nodup
      ∨ (cfg.cols ≤ 0 ∨ (cfg.rows ≠ 1 ∧ cfg.rows ≠ 2 ∧ cfg.rows ≠ 4))
      ∨ ((cfg.rowBase.length : Int) ≠ cfg.rows ∨ ∃ base ∈ cfg.rowBase, (base : Int) + cfg.cols - 1 > 0x7F)))
  ∧ (∀ s : State, s.cfg.wf = false → step s = .refused .illFormedConfig)

/-- Rules R32 and R177: what construction leaves, the construction prefix in the trace among it. -/
def Obligations.ConstructionLeavesResetValues : Prop :=
  ∀ (s : State) (cfg : Cfg) (rest : List Input), s.cfg.wf = true → s.inputs = .construct cfg :: rest → cfg.wf = true →
    ∃ t, step s = .next t
      ∧ t.cfg = cfg
      ∧ t.ctl = { initialized := false, displayOn := false, cursorVisible := false, cursorBlink := false,
                  backlightOn := false, entryIncrement := false, entryShift := false, currentCol := 0, currentRow := 0 }
      ∧ t.initState = .unpowered ∧ t.busy = false ∧ t.seq = 0 ∧ t.status = .ok ∧ t.op = none ∧ t.inputs = rest
      ∧ t.latches = { rs := false, rw := if cfg.rw.isSome then some false else none, e := false, d := 0,
                      bl := if cfg.backlightPin.isSome then some (if cfg.blActiveHigh then false else true) else none }
      ∧ t.trace =
          [.cfgOut .rs] ++ (if cfg.rw.isSome then [.cfgOut .rw] else []) ++ [.cfgOut .e]
          ++ (if cfg.dataLines.length = 4 then
                [.cfgOut (.d 4), .cfgOut (.d 5), .cfgOut (.d 6), .cfgOut (.d 7)]
              else
                [.cfgOut (.d 0), .cfgOut (.d 1), .cfgOut (.d 2), .cfgOut (.d 3), .cfgOut (.d 4), .cfgOut (.d 5),
                 .cfgOut (.d 6), .cfgOut (.d 7)])
          ++ (if cfg.backlightPin.isSome then [.cfgOut .backlight] else [])
          ++ [.e false, .ctrl false false, .data (if cfg.dataLines.length = 4 then 4 else 8) 0]
          ++ (if cfg.backlightPin.isSome then [.bl (if cfg.blActiveHigh then false else true)] else [])

/-- Rule R34 at reset: the state after reset is a good idle engine, whatever the sink. -/
def Obligations.ResetMeetsInvariant : Prop := State.reset.Inv

/-- Rules R178, R186, R191 and U1: reset of an idle engine leaves the sink, reset in the middle of an operation makes it a
draw, and when the display loses its supply the engine's state is untouched and the sink is a draw. The draws are the
model's form of "any value", and the power-loss move is the model's (log entries 3, 10 and 19). -/
def Obligations.ResetAndPowerLossAtDisplay : Prop :=
  ∀ (s : State) (cfg : Cfg) (rest : List Input), s.cfg.wf = true → cfg.wf = true →
    (s.inputs = .construct cfg :: rest → s.busy = false →
      ∃ t, step s = .next t ∧ t.sink = s.sink ∧ t.draws = s.draws)
    ∧ (s.inputs = .construct cfg :: rest → s.busy = true →
      ∃ t, step s = .next t ∧ t.sink = Sink.unknown s.draws ∧ t.draws = s.draws + 1)
    ∧ (s.inputs = .powerDisplay :: rest →
      step s = .next { s with inputs := rest, sink := Sink.unknown s.draws, draws := s.draws + 1 })

/-! ### The step and the host port -/

/-- The step runs the decoded operation: presented to an idle engine, what the decoder reads is run by exec, or accepted by
startOp where the host only starts it, with the move taken off the host's list and nothing else around it. -/
def Obligations.StepRunsDecodedInstruction : Prop :=
  ∀ (s : State) (x : Encoded) (i : Instr) (rest : List Input), s.cfg.wf = true → s.busy = false →
    decode s.cfg.cpWidth x = .ok i →
    (s.inputs = .operate x :: rest → step s = exec i { s with inputs := rest })
    ∧ (s.inputs = .start x :: rest → step s = startOp i { s with inputs := rest })

/-- Rule R176: an idle engine does nothing until the host presents an operation. -/
def Obligations.IdleEngineWaits : Prop :=
  ∀ s : State, s.cfg.wf = true → s.busy = false →
    (s.inputs = [] → step s = .next s)
    ∧ (∀ rest, s.inputs = .wait :: rest → step s = .next { s with inputs := rest })

/-- Rule R170: what is presented while BUSY = 1 is refused. -/
def Obligations.PresentingWhileBusyIsRefused : Prop :=
  ∀ (s : State) (x : Encoded) (rest : List Input), s.cfg.wf = true → s.busy = true →
    (s.inputs = .operate x :: rest ∨ s.inputs = .start x :: rest) → step s = .refused .presentedWhileBusy

/-- Rule R66: `op` values 11 to 15 name no operation, and two command words that agree on the bits their operation uses
(rule R65) decode alike: bits [35:34] and unused operand bits are ignored, the field of a coordinate that write takes as
*current* among them. -/
def Obligations.ReservedOpcodesAreRefused : Prop :=
  (∀ (s : State) (w : BitVec 40) (payload : List Bool) (rest : List Input), s.cfg.wf = true → s.busy = false →
    s.inputs = .operate (.host w payload) :: rest →
    (step s = .refused .reservedOpcode ↔ 11 ≤ (w >>> 36).toNat))
  ∧ (∀ (cpWidth : Nat) (w w' : BitVec 40) (payload : List Bool),
    let used : BitVec 40 :=
      match (w >>> 36).toNat with
      | 3 => 0xF0FFFFFFFF
      | 4 => 0xF300000000 ||| (if w.getLsbD 33 then 0 else 0x00FFFF0000) ||| (if w.getLsbD 32 then 0 else 0x000000FFFF)
      | 5 => 0xF000FF0000
      | 6 | 7 | 9 => 0xF000010000
      | 8 => 0xF0FFFF0000
      | 10 => 0xF000010001
      | _ => 0xF000000000
    w &&& used = w' &&& used → decode cpWidth (.host w payload) = decode cpWidth (.host w' payload))

/-! ### Encoding -/

/-- Rules R65, R67, R68, R71: decoding an encoded instruction gives it back, for every instruction whose operands its form
can hold. -/
def Obligations.DecodeInvertsEncode : Prop :=
  ∀ (cpWidth : Nat) (i : Instr), i.wellFormed cpWidth = true → decode cpWidth (encode cpWidth i) = .ok i

/-- Rules R63, R65, R68: words written out from the spec's encodings decode to what they stand for. -/
def Obligations.SpecWordsDecode : Prop :=
  decode 21 (.host 0x3000630063#40 []) = .ok (.position 99 99)
  ∧ decode 21 (.host 0x30FFFF0000#40 []) = .ok (.position (-1) 0)
  ∧ decode 21 (.host 0x5000410000#40 []) = .ok (.writeChar 0x41)
  ∧ decode 21 (.host 0xA000010001#40 []) = .ok (.cursor true true)
  ∧ decode 21 (.lcd9 0b000101000#9) = .ok (.functionSet false true false)
  ∧ decode 21 (.lcd9 0b011000011#9) = .ok (.setDdramAddr 0x43)
  ∧ decode 21 (.lcd9 0b101000001#9) = .ok (.writeData 0x41)
  ∧ decode 21 (.lcd5 0b00011#5) = .ok .force8Nibble

/-- Rules R67 and R68: a transfer word with RS = 0 is decoded by its highest set bit, the all-zero byte is no instruction,
and with RS = 1 it is data. -/
def Obligations.TransferWordsDecodeByHighestBit : Prop :=
  ∀ w : BitVec 9,
    (256 ≤ w.toNat → decodeLcd9 w = .ok (.writeData (BitVec.ofNat 8 (w.toNat - 256))))
    ∧ (128 ≤ w.toNat → w.toNat < 256 → decodeLcd9 w = .ok (.setDdramAddr (BitVec.ofNat 7 (w.toNat - 128))))
    ∧ (64 ≤ w.toNat → w.toNat < 128 → decodeLcd9 w = .ok (.setCgramAddr (BitVec.ofNat 6 (w.toNat - 64))))
    ∧ (32 ≤ w.toNat → w.toNat < 64 → ∃ l n f, decodeLcd9 w = .ok (.functionSet l n f)
        ∧ w.toNat / 4 = 8 + 4 * l.toNat + 2 * n.toNat + f.toNat)
    ∧ (16 ≤ w.toNat → w.toNat < 32 → ∃ s r, decodeLcd9 w = .ok (.cursorDisplayShift s r)
        ∧ w.toNat / 4 = 4 + 2 * s.toNat + r.toNat)
    ∧ (8 ≤ w.toNat → w.toNat < 16 → ∃ d c b, decodeLcd9 w = .ok (.displayControl d c b)
        ∧ w.toNat = 8 + 4 * d.toNat + 2 * c.toNat + b.toNat)
    ∧ (4 ≤ w.toNat → w.toNat < 8 → ∃ i s, decodeLcd9 w = .ok (.entryModeSet i s)
        ∧ w.toNat = 4 + 2 * i.toNat + s.toNat)
    ∧ (2 ≤ w.toNat → w.toNat < 4 → decodeLcd9 w = .ok .returnHome)
    ∧ (w.toNat = 1 → decodeLcd9 w = .ok .clearDisplay)
    ∧ (w.toNat = 0 → decodeLcd9 w = .error .noTransfer)

/-! ### The Pin Interface -/

/-- Rule R28: the effect of each event on the latches. -/
def Obligations.EventsSetLatches : Prop :=
  ∀ (cfg : Cfg) (l : Latches),
    (∀ rs rw, l.apply cfg (.ctrl rs rw) = { l with rs := rs, rw := if cfg.hasRw then some rw else l.rw })
    ∧ (∀ v, l.apply cfg (.data cfg.dw v) = { l with d := v })
    ∧ (∀ level, l.apply cfg (.e level) = { l with e := level })
    ∧ (∀ level, cfg.hasBl = true → l.apply cfg (.bl level) = { l with bl := some level })
    ∧ (∀ n, l.apply cfg (.wait n) = l) ∧ (∀ line, l.apply cfg (.cfgOut line) = l)

/-- Rules R86, R87, R88: the events of a byte transfer, 5 and one pulse in 8-bit mode, 9 and two pulses in 4-bit mode,
high nibble first; the nibble-only transfer; and the settle wait after each. -/
def Obligations.ByteTransferEvents : Prop :=
  ∀ (cfg : Cfg) (rs : Bool) (b : Byte) (t : Nat),
    (cfg.mode = .eightBit →
      xfer cfg rs b = [.ctrl rs false, .data 8 b, .e true, .wait cfg.tPw, .e false])
    ∧ (cfg.mode = .fourBit →
      xfer cfg rs b = [.ctrl rs false, .data 4 (b >>> 4), .e true, .wait cfg.tPw, .e false,
        .data 4 (b &&& 0x0F), .e true, .wait cfg.tPw, .e false])
    ∧ xferHi cfg b = [.ctrl false false, .data 4 (b >>> 4), .e true, .wait cfg.tPw, .e false]
    ∧ instr cfg b t = xfer cfg false b ++ [.wait t]
    ∧ data cfg b = xfer cfg true b ++ [.wait cfg.tData]
    ∧ instrHi cfg b t = xferHi cfg b ++ [.wait t]

/-- Rules R97 to R104: the instruction bytes at the default base bytes of rule R96, each its base plus its fields. -/
def Obligations.InstructionBytesAtDefaults : Prop :=
  ∀ cfg : Cfg, cfg.standardBytes = true →
    clearByte cfg = 0x01 ∧ homeByte cfg = 0x02
    ∧ (∀ i s : Bool, (entryByte cfg i s).toNat = 0x04 + 2 * i.toNat + s.toNat)
    ∧ (∀ d c b : Bool, (displayByte cfg d c b).toNat = 0x08 + 4 * d.toNat + 2 * c.toNat + b.toNat)
    ∧ (∀ sc rl : Bool, (shiftByte cfg sc rl).toNat = 0x10 + 8 * sc.toNat + 4 * rl.toNat)
    ∧ (∀ l n f : Bool, (functionByte cfg l n f).toNat = 0x20 + 16 * l.toNat + 8 * n.toNat + 4 * f.toNat)
    ∧ (∀ a : BitVec 6, (cgramByte cfg a).toNat = 0x40 + a.toNat)
    ∧ (∀ a : BitVec 7, (ddramByte cfg a).toNat = 0x80 + a.toNat)

/-- Rules R84 and R89 over every instruction: what one appends to the trace is whole transfers, each pulse E(1),
WAIT(T_PW), E(0), each transfer followed by exactly one settle wait, and no other wait. -/
def Obligations.EmittedEventsAreWellTimed : Prop :=
  ∀ (i : Instr) (s t : State), exec i s = .next t → ∃ evs, t.trace = s.trace ++ evs ∧ wellTimed s.cfg evs = true

/-- Rule R44: every `CTRL` event has rw = 0, and no step changes that. -/
def Obligations.StepNeverReadsDisplay : Prop :=
  neverReads State.reset.trace = true
  ∧ ∀ s t : State, neverReads s.trace = true → step s = .next t → neverReads t.trace = true

/-- Rule R92: two segments with the same latched view leave the sink the same. -/
def Obligations.LatchedViewDecidesSink : Prop :=
  ∀ (s : State) (xs ys : List Event), latchedView s.cfg s.latches xs = latchedView s.cfg s.latches ys →
    (s.emitAll xs).sink = (s.emitAll ys).sink

/-- Rules R27, R90, R166: whatever order the collaborator's line writes of an event are made in, and whether or not an
unchanged line is rewritten, the pins then have the levels of the latches. -/
def Obligations.AnyLineWriteOrderShowsLatches : Prop :=
  ∀ (cfg : Cfg) (levels : Levels) (l : Latches) (ev : Event) (calls : List GpioCall),
    cfg.wf = true → shows cfg levels l → (∀ w v, ev = .data w v → w = cfg.dw) →
    realises cfg levels ev calls → shows cfg (applyCalls levels calls) (l.apply cfg ev)

/-- Rule R82: the reference realisation sleeps at least as long as the wait asks, and gives the spec's five values. -/
def Obligations.ReferenceSleepIsLongEnough : Prop :=
  (∀ n, n ≤ 1000 * referenceSleep n ∧ 1000 * referenceSleep n < n + 1000)
  ∧ referenceSleep 450 = 1 ∧ referenceSleep 37000 = 37 ∧ referenceSleep 100000 = 100
  ∧ referenceSleep 1520000 = 1520 ∧ referenceSleep 4100000 = 4100

/-! ### Addresses -/

/-- Rules R47 and R70 (a): in a well-formed geometry a cell's DDRAM address is its row's base plus its column, and fits 7
bits. -/
def Obligations.DdramAddressIsBasePlusColumn : Prop :=
  ∀ (cfg : Cfg) (c r : Int), cfg.wf = true → 0 ≤ c → c < cfg.cols → 0 ≤ r → r < cfg.rows →
    ∃ base, cfg.rowBase[r.toNat]? = some base
      ∧ ((cfg.ddramAddr c r).toNat : Int) = base + c ∧ (base : Int) + c ≤ 0x7F

/-- Rules R46, R47, R104 over the five geometries of S1: the byte that position sends. -/
def Obligations.FiveGeometriesAddress : Prop :=
  ∀ (cols rows : Int), (cols, rows) ∈ ([(16, 1), (16, 2), (16, 4), (20, 2), (20, 4)] : List (Int × Int)) →
    ∀ (rs e : Nat) (lines : List Nat) (rw bl : Option Nat) (c r : Int), 0 ≤ c → c < cols → 0 ≤ r → r < rows →
      let cfg := Cfg.make cols rows rs e lines rw bl
      ((ddramByte cfg (cfg.ddramAddr c r)).toNat : Int) =
        0x80 + (if r = 0 then 0x00 else if r = 1 then 0x40 else if r = 2 then cols else 0x40 + cols) + c

/-! ### init -/

/-- Rules R111, R120, R122: init runs from any state, emits its four steps, ends READY with OK and the completion values,
and leaves `backlight_on` alone. -/
def Obligations.InitResult : Prop :=
  ∀ s : State, ∃ t, exec .init s = .next t
    ∧ s.Ran t
        ((match s.cfg.mode with
          | .eightBit => instr s.cfg (functionByte s.cfg true false false) s.cfg.tReset1
              ++ instr s.cfg (functionByte s.cfg true false false) s.cfg.tReset2
              ++ instr s.cfg (functionByte s.cfg true false false) s.cfg.tReset3
              ++ instr s.cfg (functionByte s.cfg true (decide (2 ≤ s.cfg.rows)) s.cfg.font5x10) s.cfg.tShort
          | .fourBit => instrHi s.cfg (functionByte s.cfg true false false) s.cfg.tReset1
              ++ instrHi s.cfg (functionByte s.cfg true false false) s.cfg.tReset2
              ++ instrHi s.cfg (functionByte s.cfg true false false) s.cfg.tReset3
              ++ instrHi s.cfg (functionByte s.cfg false false false) s.cfg.tShort
              ++ instr s.cfg (functionByte s.cfg false (decide (2 ≤ s.cfg.rows)) s.cfg.font5x10) s.cfg.tShort)
        ++ instr s.cfg (displayByte s.cfg false false false) s.cfg.tShort
        ++ instr s.cfg (clearByte s.cfg) s.cfg.tLong
        ++ instr s.cfg (entryByte s.cfg true false) s.cfg.tShort
        ++ instr s.cfg (displayByte s.cfg true false false) s.cfg.tShort)
    ∧ t.initState = .ready ∧ t.status = .ok
    ∧ t.ctl = { initialized := true, displayOn := true, cursorVisible := false, cursorBlink := false,
                backlightOn := s.ctl.backlightOn, entryIncrement := true, entryShift := false,
                currentCol := 0, currentRow := 0 }

/-- Rule R118: the size of the sequence in each mode, and the sum of its waits at the default times. -/
def Obligations.InitSequenceSize : Prop :=
  ∀ s t : State, exec .init s = .next t →
    ∃ evs, t.trace = s.trace ++ evs
      ∧ (s.cfg.mode = .fourBit →
          evs.length = 74 ∧ pulses evs = 14 ∧ (evs.countP (fun ev => match ev with | .wait _ => true | _ => false)) = 14 + 9
          ∧ (s.cfg.tPw = 450 → s.cfg.tReset1 = 4100000 → s.cfg.tReset2 = 100000 → s.cfg.tReset3 = 100000 →
             s.cfg.tShort = 37000 → s.cfg.tLong = 1520000 → waitTotal evs = 6011300))
      ∧ (s.cfg.mode = .eightBit →
          evs.length = 48 ∧ pulses evs = 8 ∧ (evs.countP (fun ev => match ev with | .wait _ => true | _ => false)) = 8 + 8
          ∧ (s.cfg.tPw = 450 → s.cfg.tReset1 = 4100000 → s.cfg.tReset2 = 100000 → s.cfg.tReset3 = 100000 →
             s.cfg.tShort = 37000 → s.cfg.tLong = 1520000 → waitTotal evs = 5971600))
      ∧ ∀ s' t' : State, s'.cfg = s.cfg → exec .init s' = .next t' → t'.trace = s'.trace ++ evs

/-- Rule R112: the transitions of INIT_STATE, (t0) to (t4), event by event while init runs, and no other. -/
def Obligations.InitStateTransitions : Prop :=
  ∀ s : State, ∃ u, startOp .init s = .next u
    ∧ u.initState = .resetSequence ∧ u.ctl.initialized = false ∧ u.busy = true ∧ u.trace = s.trace
    ∧ (∀ k, k ≤ (initEvents s.cfg).length →
        (u.advanceN k).initState =
          if k < (initStep1 s.cfg).length then .resetSequence
          else if k < (initStep1 s.cfg).length + (initStep2 s.cfg).length + (initStep3 s.cfg).length then .functionSet
          else .displayConfigured)
    ∧ (u.advanceN ((initEvents s.cfg).length + 1)).initState = .ready
    ∧ (∀ (i : Instr) (v : State) (k : Nat), i ≠ .init → startOp i s = .next v →
        (v.advanceN k).initState = s.initState)
    ∧ (∀ cfg, (s.reconstruct cfg).initState = .unpowered)

/-- Rule R121: a second init ends in the same Controller State, emits the same events and does not fail. -/
def Obligations.InitIsIdempotent : Prop :=
  ∀ s t : State, exec .init s = .next t →
    ∃ u, exec .init t = .next u ∧ u.ctl = t.ctl ∧ u.status = .ok ∧ u.initState = t.initState
      ∧ ∃ evs, t.trace = s.trace ++ evs ∧ u.trace = t.trace ++ evs
        ∧ pulses evs = (match s.cfg.mode with | .fourBit => 14 | .eightBit => 8)

/-! ### The operations of the READY state -/

/-- Rules R128 and R129: clear and home, in READY and before init. -/
def Obligations.ClearAndHomeResults : Prop :=
  ∀ s : State,
    (s.ctl.initialized = true →
      (∃ t, exec .clear s = .next t ∧ s.Ran t (instr s.cfg (clearByte s.cfg) s.cfg.tLong)
        ∧ t.status = .ok ∧ t.initState = s.initState ∧ t.ctl = { s.ctl with currentCol := 0, currentRow := 0 })
      ∧ (∃ t, exec .home s = .next t ∧ s.Ran t (instr s.cfg (homeByte s.cfg) s.cfg.tHome)
        ∧ t.status = .ok ∧ t.initState = s.initState ∧ t.ctl = { s.ctl with currentCol := 0, currentRow := 0 }))
    ∧ (s.ctl.initialized = false →
      exec .clear s = .next (s.failedWith .notInitializedError)
      ∧ exec .home s = .next (s.failedWith .notInitializedError))

/-- Rules R127 and R130: position. In range it sends the set-DDRAM-address byte of the cell and caches the coordinate; out
of range, or before init, it fails. -/
def Obligations.PositionResult : Prop :=
  ∀ (s : State) (c r : Int),
    (s.ctl.initialized = true → 0 ≤ c → c < s.cfg.cols → 0 ≤ r → r < s.cfg.rows →
      ∃ t, exec (.position c r) s = .next t
        ∧ s.Ran t (instr s.cfg (ddramByte s.cfg (BitVec.ofInt 7 (s.cfg.rowBase.getD r.toNat 0 + c))) s.cfg.tShort)
        ∧ t.status = .ok ∧ t.initState = s.initState
        ∧ t.ctl = { s.ctl with currentCol := BitVec.ofInt 7 c, currentRow := BitVec.ofInt 2 r })
    ∧ (s.ctl.initialized = true → (c < 0 ∨ s.cfg.cols ≤ c ∨ r < 0 ∨ s.cfg.rows ≤ r) →
      exec (.position c r) s = .next (s.failedWith .outOfRangeError))
    ∧ (s.ctl.initialized = false → exec (.position c r) s = .next (s.failedWith .notInitializedError))

/-- Rule R131: write. A defaulted coordinate is the cached one; the address is always sent; then as many low bytes as fit
the row; the cache is the start of the text. -/
def Obligations.WriteResult : Prop :=
  ∀ (s : State) (text : List Nat) (col row : Coord) (c r : Int),
    (c = match col with | .current => (s.ctl.currentCol.toNat : Int) | .at v => v) →
    (r = match row with | .current => (s.ctl.currentRow.toNat : Int) | .at v => v) →
    (s.ctl.initialized = true → 0 ≤ c → c < s.cfg.cols → 0 ≤ r → r < s.cfg.rows →
      ∃ t, exec (.write text col row) s = .next t
        ∧ s.Ran t
            (instr s.cfg (ddramByte s.cfg (BitVec.ofInt 7 (s.cfg.rowBase.getD r.toNat 0 + c))) s.cfg.tShort
             ++ ((text.take (min (text.length : Int) (s.cfg.cols - c)).toNat).map
                  (fun cp => data s.cfg (BitVec.ofNat 8 (cp % 256)))).flatten)
        ∧ t.status = .ok ∧ t.initState = s.initState
        ∧ t.ctl = { s.ctl with currentCol := BitVec.ofInt 7 c, currentRow := BitVec.ofInt 2 r })
    ∧ (s.ctl.initialized = true → (c < 0 ∨ s.cfg.cols ≤ c ∨ r < 0 ∨ s.cfg.rows ≤ r) →
      exec (.write text col row) s = .next (s.failedWith .outOfRangeError))
    ∧ (s.ctl.initialized = false → exec (.write text col row) s = .next (s.failedWith .notInitializedError))

/-- Rule R131 and S6: a successful write issues min(len(text), cols - c) data transfers, never more than cols. -/
def Obligations.WriteTruncatesAtRowEnd : Prop :=
  ∀ (s t : State) (text : List Nat) (col row : Coord), exec (.write text col row) s = .next t → t.status = .ok →
    ∃ evs, t.trace = s.trace ++ evs
      ∧ (dataTransfers evs : Int) = min (text.length : Int) (s.cfg.cols - resolve col s.col)
      ∧ (dataTransfers evs : Int) ≤ s.cfg.cols

/-- Rule R132, the engine's side: write_char sends one data byte and writes no Controller State. -/
def Obligations.WriteCharResult : Prop :=
  ∀ (s : State) (code : Byte),
    (s.ctl.initialized = true →
      ∃ t, exec (.writeChar code) s = .next t ∧ s.Ran t (data s.cfg code)
        ∧ t.status = .ok ∧ t.initState = s.initState ∧ t.ctl = s.ctl)
    ∧ (s.ctl.initialized = false → exec (.writeChar code) s = .next (s.failedWith .notInitializedError))

/-- Rules R133 and R135: display_on_off and cursor re-issue the display-control instruction with their own flags changed,
on every call. -/
def Obligations.DisplayControlOperationsResults : Prop :=
  ∀ (s : State) (state visible blink : Bool),
    (s.ctl.initialized = true →
      (∃ t, exec (.displayOnOff state) s = .next t
        ∧ s.Ran t (instr s.cfg (displayByte s.cfg state s.ctl.cursorVisible s.ctl.cursorBlink) s.cfg.tShort)
        ∧ t.status = .ok ∧ t.initState = s.initState ∧ t.ctl = { s.ctl with displayOn := state })
      ∧ (∃ t, exec (.cursor visible blink) s = .next t
        ∧ s.Ran t (instr s.cfg (displayByte s.cfg s.ctl.displayOn visible blink) s.cfg.tShort)
        ∧ t.status = .ok ∧ t.initState = s.initState
        ∧ t.ctl = { s.ctl with cursorVisible := visible, cursorBlink := blink }))
    ∧ (s.ctl.initialized = false →
      exec (.displayOnOff state) s = .next (s.failedWith .notInitializedError)
      ∧ exec (.cursor visible blink) s = .next (s.failedWith .notInitializedError))

/-- Rule R134: backlight writes its flag and, where there is a backlight pin, drives its line; it makes no transfer. -/
def Obligations.BacklightResult : Prop :=
  ∀ (s : State) (state : Bool),
    (s.ctl.initialized = true →
      ∃ t, exec (.backlight state) s = .next t
        ∧ s.Ran t (if s.cfg.backlightPin.isSome
            then [.bl (if state = s.cfg.blActiveHigh then true else false)] else [])
        ∧ t.status = .ok ∧ t.initState = s.initState ∧ t.ctl = { s.ctl with backlightOn := state })
    ∧ (s.ctl.initialized = false → exec (.backlight state) s = .next (s.failedWith .notInitializedError))

/-- Rule R138: display_shift sends 0x18 or 0x1C at the default bytes and writes no Controller State. -/
def Obligations.DisplayShiftResult : Prop :=
  ∀ (s : State) (direction : Direction),
    (s.ctl.initialized = true →
      ∃ t, exec (.displayShift direction) s = .next t
        ∧ s.Ran t (instr s.cfg
            (s.cfg.opcShift ||| 0x08 ||| (match direction with | .left => 0x00 | .right => 0x04)) s.cfg.tShort)
        ∧ t.status = .ok ∧ t.initState = s.initState ∧ t.ctl = s.ctl)
    ∧ (s.ctl.initialized = false → exec (.displayShift direction) s = .next (s.failedWith .notInitializedError))

/-- Rules R136 and R137, the engine's side: create_char's checks in order, and its ten transfers. -/
def Obligations.CreateCharResult : Prop :=
  ∀ (s : State) (slot : Int) (pattern : List Byte),
    (s.ctl.initialized = true → 0 ≤ slot → slot ≤ 7 → pattern.length = 8 → (∀ b ∈ pattern, b &&& 0xE0 = 0) →
      ∃ t, exec (.createChar slot pattern) s = .next t
        ∧ s.Ran t
            (instr s.cfg (cgramByte s.cfg (BitVec.ofInt 6 (slot * 8))) s.cfg.tShort
             ++ (pattern.map (data s.cfg)).flatten
             ++ instr s.cfg (ddramByte s.cfg (s.cfg.ddramAddr s.ctl.currentCol.toNat s.ctl.currentRow.toNat)) s.cfg.tShort)
        ∧ t.status = .ok ∧ t.initState = s.initState ∧ t.ctl = s.ctl)
    ∧ (s.ctl.initialized = true → (slot < 0 ∨ 7 < slot) →
      exec (.createChar slot pattern) s = .next (s.failedWith .outOfRangeError))
    ∧ (s.ctl.initialized = true → 0 ≤ slot → slot ≤ 7 → (pattern.length ≠ 8 ∨ ∃ b ∈ pattern, b &&& 0xE0 ≠ 0) →
      exec (.createChar slot pattern) s = .next (s.failedWith .invalidPatternError))
    ∧ (s.ctl.initialized = false →
      exec (.createChar slot pattern) s = .next (s.failedWith .notInitializedError))

/-- Rule R139: transfers, pulses, events and settle waits of each successful operation, in both modes. `k` is how many
full-byte transfers it makes, `d` how many of them are data, `w` the sum of its settle waits, `x` its BL events. -/
def Obligations.OperationSizes : Prop :=
  ∀ (i : Instr) (s t : State) (k d w x : Nat), exec i s = .next t → t.status = .ok →
    (match i with
     | .clear => k = 1 ∧ d = 0 ∧ w = s.cfg.tLong ∧ x = 0
     | .home => k = 1 ∧ d = 0 ∧ w = s.cfg.tHome ∧ x = 0
     | .position _ _ | .displayOnOff _ | .displayShift _ | .cursor _ _ => k = 1 ∧ d = 0 ∧ w = s.cfg.tShort ∧ x = 0
     | .writeChar _ => k = 1 ∧ d = 1 ∧ w = s.cfg.tData ∧ x = 0
     | .write text col _ =>
         d = min text.length (s.cfg.cols - resolve col s.col).toNat ∧ k = 1 + d
         ∧ w = s.cfg.tShort + d * s.cfg.tData ∧ x = 0
     | .createChar _ _ => k = 10 ∧ d = 8 ∧ w = 2 * s.cfg.tShort + 8 * s.cfg.tData ∧ x = 0
     | .backlight _ => k = 0 ∧ d = 0 ∧ w = 0 ∧ x = (if s.cfg.hasBl then 1 else 0)
     | _ => False) →
    ∃ evs, t.trace = s.trace ++ evs ∧ dataTransfers evs = d ∧ waitTotal evs = pulses evs * s.cfg.tPw + w
      ∧ (s.cfg.mode = .fourBit → pulses evs = 2 * k ∧ evs.length = 10 * k + x)
      ∧ (s.cfg.mode = .eightBit → pulses evs = k ∧ evs.length = 6 * k + x)

/-- Rules R106 and R107: every instruction byte an operation sends, outside the forced and narrowing sends of init, is in
the closed inventory and carries its settle class; data carries T_DATA. -/
def Obligations.InstructionBytesAreInventoried : Prop :=
  ∀ (i : Instr) (s t : State), i.isOperation = true → (∀ v, i ≠ .backlight v) → s.IdleInv →
    s.cfg.standardBytes = true → exec i s = .next t →
    ∃ xs : List (Bool × Byte),
      t.trace = s.trace ++ (if i = .init then initStep1 s.cfg ++ initStep2 s.cfg else [])
        ++ (xs.map (fun x =>
              if x.1 then data s.cfg x.2
              else instr s.cfg x.2
                (if x.2 = 0x01 then s.cfg.tLong else if x.2 = 0x02 then s.cfg.tHome else s.cfg.tShort))).flatten
      ∧ ∀ b : Byte, (false, b) ∈ xs →
          b = 0x01 ∨ b = 0x02 ∨ b = 0x06 ∨ (0x08 ≤ b.toNat ∧ b.toNat ≤ 0x0F) ∨ b = 0x18 ∨ b = 0x1C
          ∨ b.toNat = 0x20 + (if s.cfg.dataLines.length = 4 then 0 else 0x10) + (if 2 ≤ s.cfg.rows then 0x08 else 0)
              + (if s.cfg.font5x10 then 0x04 else 0)
          ∨ (∃ slot, slot < 8 ∧ b.toNat = 0x40 + 8 * slot)
          ∨ (∃ (c r : Nat) (base : Nat), (c : Int) < s.cfg.cols ∧ s.cfg.rowBase[r]? = some base
              ∧ b.toNat = 0x80 + base + c)

/-! ### Errors, frames, writers -/

/-- Rules R152 to R155: which STATUS every operation ends with, and so which error is raised when several causes hold; a
failing one has no other effect. -/
def Obligations.StatusOfEveryOperation : Prop :=
  ∀ (i : Instr) (s t : State), i.isOperation = true → exec i s = .next t →
    (i = .init → t.status = .ok)
    ∧ (i ≠ .init → s.ctl.initialized = false → t.status = .notInitializedError)
    ∧ (i ≠ .init → s.ctl.initialized = true →
        (t.status = .outOfRangeError ↔
          match i with
          | .position c r => c < 0 ∨ s.cfg.cols ≤ c ∨ r < 0 ∨ s.cfg.rows ≤ r
          | .write _ col row => resolve col s.col < 0 ∨ s.cfg.cols ≤ resolve col s.col
              ∨ resolve row s.row < 0 ∨ s.cfg.rows ≤ resolve row s.row
          | .createChar slot _ => slot < 0 ∨ 7 < slot
          | _ => False)
        ∧ (t.status = .invalidPatternError ↔
          match i with
          | .createChar slot pattern =>
              (0 ≤ slot ∧ slot ≤ 7) ∧ (pattern.length ≠ 8 ∨ ∃ b ∈ pattern, b &&& 0xE0 ≠ 0)
          | _ => False)
        ∧ t.status ≠ .notInitializedError ∧ t.status ≠ .configurationError)
    ∧ (t.status ≠ .ok → t = s.failedWith t.status)

/-- Rules R126, R156 and R159: every operation answers a next state, and one that fails changes STATUS alone. -/
def Obligations.FailedOperationWritesOnlyStatus : Prop :=
  ∀ (i : Instr) (s : State), i.isOperation = true →
    ∃ t, exec i s = .next t ∧ (t.status ≠ .ok → t = s.failedWith t.status)

/-- Rule R33: who writes each element of the engine's state, over every instruction of the table. -/
def Obligations.OnlyTheListedWritersWrite : Prop :=
  ∀ (i : Instr) (s t : State), exec i s = .next t →
    (t.cfg = s.cfg ∧ t.inputs = s.inputs)
    ∧ (i ≠ .init → t.initState = s.initState ∧ t.ctl.initialized = s.ctl.initialized
        ∧ t.ctl.entryIncrement = s.ctl.entryIncrement ∧ t.ctl.entryShift = s.ctl.entryShift)
    ∧ (i ≠ .init → (∀ v, i ≠ .displayOnOff v) → t.ctl.displayOn = s.ctl.displayOn)
    ∧ (i ≠ .init → (∀ v b, i ≠ .cursor v b) →
        t.ctl.cursorVisible = s.ctl.cursorVisible ∧ t.ctl.cursorBlink = s.ctl.cursorBlink)
    ∧ ((∀ v, i ≠ .backlight v) → t.ctl.backlightOn = s.ctl.backlightOn ∧ t.latches.bl = s.latches.bl)
    ∧ (i ≠ .init → i ≠ .clear → i ≠ .home → (∀ c r, i ≠ .position c r) → (∀ x c r, i ≠ .write x c r) →
        t.ctl.currentCol = s.ctl.currentCol ∧ t.ctl.currentRow = s.ctl.currentRow)
    ∧ (i.isOperation = false → t.ctl = s.ctl ∧ t.status = s.status)
    ∧ (∀ v, i = .backlight v → t.latches = { s.latches with bl := t.latches.bl })
    ∧ (i.isOperation = true → t.status ≠ .ok → t = s.failedWith t.status)

/-- Rules R44, R55 and U6: nothing the engine does depends on the display. Two states that differ only in the sink answer
alike but for the sink. -/
def Obligations.EngineIgnoresDisplay : Prop :=
  ∀ (i : Instr) (s t : State) (sink : Sink) (draws : Nat), exec i s = .next t →
    ∃ sink' draws', exec i { s with sink := sink, draws := draws } = .next { t with sink := sink', draws := draws' }

/-! ### The transfers of the table -/

/-- Rules R97 to R106: each transfer kind, run alone, emits its byte with its settle wait and writes nothing of the
engine's state but the latches and the trace; what the engine never emits is refused (rules R72 and R107, U9). That a table
row is run so, and the wait of a forced function set, are the model's choice (log entries 6 and 7). -/
def Obligations.TransferResults : Prop :=
  ∀ s : State,
    let emits := fun (i : Instr) (evs : List Event) =>
      ∃ t, exec i s = .next t ∧ s.Ran t evs ∧ t.ctl = s.ctl ∧ t.initState = s.initState ∧ t.status = s.status
    let final := fun (l n f : Bool) =>
      l = decide (s.cfg.mode = .eightBit) ∧ n = decide (2 ≤ s.cfg.rows) ∧ f = s.cfg.font5x10
    emits .clearDisplay (instr s.cfg (clearByte s.cfg) s.cfg.tLong)
    ∧ emits .returnHome (instr s.cfg (homeByte s.cfg) s.cfg.tHome)
    ∧ emits (.entryModeSet true false) (instr s.cfg (entryByte s.cfg true false) s.cfg.tShort)
    ∧ (∀ i sh, ¬ (i = true ∧ sh = false) → exec (.entryModeSet i sh) s = .refused .neverEmitted)
    ∧ (∀ d c b, emits (.displayControl d c b) (instr s.cfg (displayByte s.cfg d c b) s.cfg.tShort))
    ∧ (∀ rl, emits (.cursorDisplayShift true rl) (instr s.cfg (shiftByte s.cfg true rl) s.cfg.tShort))
    ∧ (∀ rl, exec (.cursorDisplayShift false rl) s = .refused .neverEmitted)
    ∧ (∀ l n f, final l n f → emits (.functionSet l n f) (instr s.cfg (functionByte s.cfg l n f) s.cfg.tShort))
    ∧ (s.cfg.mode = .eightBit → ¬ final true false false →
        ∃ w, (w = s.cfg.tReset1 ∨ w = s.cfg.tReset2 ∨ w = s.cfg.tReset3)
          ∧ emits (.functionSet true false false) (instr s.cfg (functionByte s.cfg true false false) w))
    ∧ (∀ l n f, ¬ final l n f → ¬ (s.cfg.mode = .eightBit ∧ l = true ∧ n = false ∧ f = false) →
        exec (.functionSet l n f) s = .refused .neverEmitted)
    ∧ (∀ slot, slot < 8 →
        emits (.setCgramAddr (BitVec.ofNat 6 (8 * slot)))
          (instr s.cfg (cgramByte s.cfg (BitVec.ofNat 6 (8 * slot))) s.cfg.tShort))
    ∧ (∀ a : BitVec 6, a.toNat % 8 ≠ 0 → exec (.setCgramAddr a) s = .refused .neverEmitted)
    ∧ (∀ (r c base : Nat), s.cfg.rowBase[r]? = some base → (c : Int) < s.cfg.cols → base + c ≤ 0x7F →
        emits (.setDdramAddr (BitVec.ofNat 7 (base + c)))
          (instr s.cfg (ddramByte s.cfg (BitVec.ofNat 7 (base + c))) s.cfg.tShort))
    ∧ (∀ a : BitVec 7, (∀ base ∈ s.cfg.rowBase, ∀ c : Nat, (c : Int) < s.cfg.cols → base + c ≠ a.toNat) →
        exec (.setDdramAddr a) s = .refused .neverEmitted)
    ∧ (∀ b, emits (.writeData b) (data s.cfg b))

/-- Rules R87, R114, R115: the nibble-only transfers in 4-bit mode, and that they are refused in 8-bit mode. Three
FORCE8_NIBBLE in a row, from an idle engine whose trace does not already end in one, emit step 1 of init (log entries 7
and 8). -/
def Obligations.NibbleTransferResults : Prop :=
  ∀ s : State,
    (s.cfg.mode = .fourBit →
      (∃ t, exec .narrow4Nibble s = .next t ∧ s.Ran t (instrHi s.cfg (functionByte s.cfg false false false) s.cfg.tShort)
        ∧ t.ctl = s.ctl ∧ t.initState = s.initState ∧ t.status = s.status)
      ∧ (∃ t w, exec .force8Nibble s = .next t ∧ s.Ran t (instrHi s.cfg (functionByte s.cfg true false false) w)
        ∧ (w = s.cfg.tReset1 ∨ w = s.cfg.tReset2 ∨ w = s.cfg.tReset3)
        ∧ t.ctl = s.ctl ∧ t.initState = s.initState ∧ t.status = s.status)
      ∧ (s.seq = 0 →
          (∀ w, (instrHi s.cfg (functionByte s.cfg true false false) w).isSuffixOf s.trace = false) →
          ∃ t u v, exec .force8Nibble s = .next t ∧ exec .force8Nibble t = .next u ∧ exec .force8Nibble u = .next v
            ∧ v.trace = s.trace ++ initStep1 s.cfg))
    ∧ (s.cfg.mode = .eightBit →
      exec .narrow4Nibble s = .refused .nibbleInEightBitMode
      ∧ exec .force8Nibble s = .refused .nibbleInEightBitMode)

/-! ### The sequencer at its own grain -/

/-- Rule R25 and D35: started and then run one event a step, an instruction ends in the state that exec answers; refused
alike. That the state writes come after the last event is log entry 9. -/
def Obligations.SequencerAgreesWithExec : Prop :=
  ∀ (i : Instr) (s : State), s.busy = false → s.seq = 0 → s.op = none →
    (∀ u, startOp i s = .next u → exec i s = .next u.drain ∧ u.drain.busy = false)
    ∧ (∀ f, startOp i s ≠ .fault f)
    ∧ (∀ r, startOp i s = .refused r → exec i s = .refused r)

/-- Rules R25 and R171: while the host waits, each micro-step of a running operation emits exactly the next event of its
list and moves SEQ on by one, and the one after the last event performs the operation's state writes. That the Controller
State is left alone until then is the model's (log entry 9). -/
def Obligations.MicroStepEmitsNextEvent : Prop :=
  ∀ (s : State) (i : Instr) (rest : List Input), s.cfg.wf = true → s.busy = true → s.op = some i →
    (s.inputs = .wait :: rest ∨ s.inputs = [] ∧ rest = []) →
    (∀ ev, (eventsOf i s)[s.seq]? = some ev →
      ∃ t, step s = .next t ∧ t.trace = s.trace ++ [ev] ∧ t.seq = s.seq + 1 ∧ t.busy = true ∧ t.op = some i
        ∧ t.latches = s.latches.apply s.cfg ev ∧ t.ctl = s.ctl ∧ t.status = s.status ∧ t.inputs = rest)
    ∧ ((eventsOf i s).length ≤ s.seq → step s = .next (commitOf i { s with inputs := rest }))

/-! ### The display -/

/-- Rules R57 and R114: three forced function-sets leave the sink's interface 8 bits wide with no nibble pending, from any
sink state. In an init the sink is known from then on; of a sink that was unknown that is the axiom of rule R57, which the
model takes (log entry 26), of a known one it follows from what its pulses do. -/
def Obligations.ForcedSendsConverge : Prop :=
  ∀ s : State, s.cfg.standardBytes = true →
    (((initEntry s).emitAll (initStep1 s.cfg)).sink.wide = true
      ∧ ((initEntry s).emitAll (initStep1 s.cfg)).sink.half = none
      ∧ ((initEntry s).emitAll (initStep1 s.cfg)).sink.knowledge = .known)
    ∧ (s.sink.knowledge = .known →
      (s.emitAll (initStep1 s.cfg)).sink.wide = true ∧ (s.emitAll (initStep1 s.cfg)).sink.half = none)

/-- Rules R54, R58, R114, R192: init brings engine and sink together from any state of either, and leaves a blank DDRAM, the
address counter at 0 and no shift. -/
def Obligations.InitSynchronisesDisplay : Prop :=
  ∀ s : State, s.cfg.standardBytes = true →
    ∃ t, exec .init s = .next t ∧ t.Synced ∧ t.sink.ac = 0 ∧ t.sink.shift = 0
      ∧ ∀ a, a < 128 → t.sink.ddram.read a = some 0x20

/-- Rules R54 (b) and R187: every operation keeps the sink in agreement with the engine, in DDRAM-address mode. -/
def Obligations.OperationsKeepDisplaySynced : Prop :=
  ∀ (i : Instr) (s t : State), i.isOperation = true → s.Synced → exec i s = .next t → t.Synced

/-- Rules R58 and R97: clear blanks every DDRAM cell, zeroes the address counter and the shift, and leaves CGRAM. -/
def Obligations.ClearBlanksDisplay : Prop :=
  ∀ s : State, s.ctl.initialized = true → s.Synced →
    ∃ t, exec .clear s = .next t ∧ (∀ a, a < 128 → t.sink.ddram.read a = some 0x20)
      ∧ t.sink.ac = 0 ∧ t.sink.shift = 0 ∧ (∀ a, t.sink.cgram.read a = s.sink.cgram.read a)

/-- Rules R58, R60, R104: the operations that store no byte leave every cell of both memories, and position and home set
the address counter. -/
def Obligations.OperationsThatStoreNothing : Prop :=
  ∀ (i : Instr) (s t : State), s.Synced → exec i s = .next t →
    (match i with
     | .home | .position _ _ | .displayOnOff _ | .backlight _ | .displayShift _ | .cursor _ _ => True
     | _ => False) →
    (∀ a, t.sink.ddram.read a = s.sink.ddram.read a) ∧ (∀ a, t.sink.cgram.read a = s.sink.cgram.read a)
    ∧ (∀ c r, i = .position c r → t.status = .ok → t.sink.ac = s.cfg.ddramAddr c r)
    ∧ (i = .home → t.status = .ok → t.sink.ac = 0 ∧ t.sink.shift = 0)
    ∧ (∀ dir, i = .displayShift dir → t.status = .ok →
        t.sink.ac = s.sink.ac ∧ t.sink.shift = s.sink.shift + Sink.shiftStep (dir == .right)
        ∧ (t.sink.shift = s.sink.shift + 1 ∨ t.sink.shift = s.sink.shift - 1))

/-- Rules R45, R51, R59, R131: the kept characters of a write land in consecutive DDRAM cells from the addressed one, every
other cell and CGRAM as before. -/
def Obligations.WriteLandsInRow : Prop :=
  ∀ (s : State) (text : List Nat) (col row : Coord) (c r : Int), s.cfg.wf = true → s.ctl.initialized = true → s.Synced →
    c = resolve col s.col → r = resolve row s.row → 0 ≤ c → c < s.cfg.cols → 0 ≤ r → r < s.cfg.rows →
    ∃ t, exec (.write text col row) s = .next t
      ∧ (∀ (k : Nat) (cp : Nat), text[k]? = some cp → (k : Int) < s.cfg.cols - c →
          t.sink.ddram.read ((s.cfg.ddramAddr c r).toNat + k) = some (BitVec.ofNat 8 (cp % 256)))
      ∧ (∀ a, (a < (s.cfg.ddramAddr c r).toNat
            ∨ (s.cfg.ddramAddr c r).toNat + min text.length (s.cfg.cols - c).toNat ≤ a) →
          t.sink.ddram.read a = s.sink.ddram.read a)
      ∧ (∀ a, t.sink.cgram.read a = s.sink.cgram.read a)
      ∧ ((text.length : Int) < s.cfg.cols - c →
          t.sink.ac.toNat = (s.cfg.ddramAddr c r).toNat + text.length)

/-- Rules R59 and R132: write_char stores its byte at the address counter of the DDRAM, every other cell and CGRAM as
before. -/
def Obligations.WriteCharLandsAtCounter : Prop :=
  ∀ (s : State) (code : Byte), s.ctl.initialized = true → s.Synced →
    ∃ t, exec (.writeChar code) s = .next t
      ∧ t.sink.ddram.read s.sink.ac.toNat = some code
      ∧ (∀ a, a ≠ s.sink.ac.toNat → t.sink.ddram.read a = s.sink.ddram.read a)
      ∧ (∀ a, t.sink.cgram.read a = s.sink.cgram.read a)

/-- Rules R43, R48, R137, R187 and S3: create_char stores the pattern in its slot's eight CGRAM cells, leaves every other
cell and all of DDRAM, and the address counter is back at the cached DDRAM cell. -/
def Obligations.CreateCharFillsSlot : Prop :=
  ∀ (s : State) (slot : Nat) (pattern : List Byte), s.ctl.initialized = true → s.Synced → slot ≤ 7 →
    pattern.length = 8 → (∀ b ∈ pattern, b &&& 0xE0 = 0) →
    ∃ t, exec (.createChar (slot : Int) pattern) s = .next t
      ∧ (∀ (l : Nat) (b : Byte), pattern[l]? = some b → t.sink.cgram.read (8 * slot + l) = some b)
      ∧ (∀ a, (a < 8 * slot ∨ 8 * slot + 8 ≤ a) → t.sink.cgram.read a = s.sink.cgram.read a)
      ∧ (∀ a, t.sink.ddram.read a = s.sink.ddram.read a)
      ∧ t.sink.target = .ddram ∧ t.sink.ac = s.cfg.ddramAddr s.ctl.currentCol.toNat s.ctl.currentRow.toNat

/-- Rules R57 to R60 and R99 to R104: what each instruction byte, those that the engine never emits among them, and a data
byte do to a sink in step, at the default base bytes, and that a table row run alone (log entry 6) does just what its events
do. A cursor move and a data byte step the counter by Sink.stepAc, whose line ends are the model's choice (log entries 12
and 13), which way a shift or a cursor move counts is free (log entries 14, 20), and a data byte under S = 1 draws SHIFT
(log entry 15). -/
def Obligations.TransferEffectsAtDisplay : Prop :=
  ∀ s : State, s.cfg.standardBytes = true → s.sink.inStep s.cfg →
    let leaves := fun (evs : List Event) (f : Nat → Sink → Sink) => ∃ k, (s.emitAll evs).sink = f k s.sink
    let sends := fun (b : Byte) (f : Nat → Sink → Sink) => ∀ w, leaves (instr s.cfg b w) f
    sends (clearByte s.cfg) (fun _ sk =>
      { sk with ddram := Memory.fill 128 0x20, target := .ddram, ac := 0, shift := 0, id := true })
    ∧ sends (homeByte s.cfg) (fun _ sk => { sk with target := .ddram, ac := 0, shift := 0 })
    ∧ (∀ i sh, sends (entryByte s.cfg i sh) (fun _ sk => { sk with id := i, s := sh }))
    ∧ (∀ d c b, sends (displayByte s.cfg d c b) (fun _ sk => { sk with d := d, c := c, b := b }))
    ∧ (∀ r, sends (shiftByte s.cfg true r) (fun _ sk => { sk with shift := sk.shift + Sink.shiftStep r }))
    ∧ (∀ r, sends (shiftByte s.cfg false r) (fun k sk =>
        { sk with ac := sk.stepAc s.cfg k (r == Config.freeCursorRightUp) }))
    ∧ (∀ l n f, sends (functionByte s.cfg l n f) (fun _ sk => { sk with wide := l, n := n, f := f, half := none }))
    ∧ (∀ a : BitVec 6, sends (cgramByte s.cfg a) (fun _ sk => { sk with target := .cgram, ac := a.setWidth 7 }))
    ∧ (∀ a, sends (ddramByte s.cfg a) (fun _ sk => { sk with target := .ddram, ac := a }))
    ∧ (∀ b, s.sink.target = .ddram → leaves (data s.cfg b) (fun k sk =>
        { sk with ddram := sk.ddram.write sk.ac.toNat b, ac := sk.stepAc s.cfg k sk.id,
                  shift := if sk.s then Config.freeShift k else sk.shift }))
    ∧ (∀ b, s.sink.target = .cgram → leaves (data s.cfg b) (fun k sk =>
        { sk with cgram := sk.cgram.write (sk.ac.toNat % 64) (b &&& 0x1F), ac := sk.stepAc s.cfg k sk.id,
                  shift := if sk.s then Config.freeShift k else sk.shift }))
    ∧ (∀ (i : Instr) (t : State), i.isOperation = false → exec i s = .next t →
        ∃ evs, t.trace = s.trace ++ evs ∧ t.sink = (s.emitAll evs).sink)

/-- Rules R56, R57, R61 and R87: what the nibble-only transfers, run alone (log entry 6), do to a sink in any state, at the
default base bytes: a pulse to an 8-bit interface is a whole function set, the first pulse to a 4-bit one is its pending
nibble, no cell of either memory changes, and an unknown sink is a fresh draw. -/
def Obligations.NibbleEffectsAtDisplay : Prop :=
  ∀ (s : State) (i : Instr) (v : Nibble), s.cfg.mode = .fourBit → s.cfg.standardBytes = true →
    (i = .force8Nibble ∧ v = 0x3 ∨ i = .narrow4Nibble ∧ v = 0x2) →
    ∃ t, exec i s = .next t
      ∧ (s.sink.knowledge = .unknown → ∃ k, t.sink = Sink.unknown k)
      ∧ (s.sink.knowledge = .known →
          (∀ a, t.sink.ddram.read a = s.sink.ddram.read a) ∧ (∀ a, t.sink.cgram.read a = s.sink.cgram.read a)
          ∧ (s.sink.wide = true → t.sink.wide = decide (v = 0x3) ∧ t.sink.half = none ∧ t.sink.ac = s.sink.ac
              ∧ t.sink.target = s.sink.target)
          ∧ (s.sink.wide = false → s.sink.half = none → t.sink = { s.sink with half := some v }))

/-! ### Invariants of the step -/

/-- Rule R34: a step from a state whose engine is good, or will be when its operation ends, leaves one that is too. -/
def Obligations.StepKeepsInvariant : Prop := ∀ s t : State, s.Inv → step s = .next t → t.Inv

/-- Rules R42, R43, R55: the sink's memories keep their canonical form under every step, and have it at reset. All 128
DDRAM cells hold 8 bits and all 64 CGRAM cells 5 bits, and there are no others. -/
def Obligations.StepKeepsMemoryCanonical : Prop :=
  State.reset.memoryWf = true
  ∧ ∀ s t : State, s.memoryWf = true → step s = .next t → t.memoryWf = true

/-- Rule R13: CFG is "fixed at construction; never mutated". -/
def Obligations.StepNeverChangesConfig : Prop :=
  ∀ s t : State, step s = .next t → (∀ cfg rest, s.inputs ≠ .construct cfg :: rest) → t.cfg = s.cfg

/-- Rule R61 and U1: an unknown sink stays unknown, a fresh draw if anything, until an init. No step makes it anything
else, whatever the host presents, but the acceptance of an init, after which the forced pulses of that init are awaited, or
an init that runs as one step. The mark of what is known is the model's (log entry 26). -/
def Obligations.UnknownDisplayStaysUnknown : Prop :=
  ∀ s t : State, s.sink.knowledge = .unknown → step s = .next t →
    (t.sink = s.sink ∨ ∃ k, t.sink = Sink.unknown k)
    ∨ (t.op = some .init ∧ t.draws = s.draws + 1
        ∧ t.sink = { s.sink with knowledge := .recovering 3, cgram := Memory.unknownCgram s.draws })
    ∨ (∃ x rest, s.inputs = .operate x :: rest ∧ decode s.cfg.cpWidth x = .ok .init)

/-- Rules R82, R164, R166: a wait is realised by any sleeps, in microseconds or milliseconds, that last at least as long as
it asks, and by nothing else. -/
def Obligations.WaitIsAnySleepsLongEnough : Prop :=
  ∀ (cfg : Cfg) (levels : Levels) (n : Nat) (calls : List GpioCall),
    realises cfg levels (.wait n) calls ↔
      (∀ c ∈ calls, (∃ k, c = .sleepMicroseconds k) ∨ (∃ k, c = .sleepMilliseconds k))
      ∧ n ≤ (calls.map (fun c => match c with
          | .sleepMicroseconds k => 1000 * k
          | .sleepMilliseconds k => 1000000 * k
          | .configureAsOutput _ | .writeDigital _ _ => 0)).sum

/-- Rules R181 and U3: after an init, from any state, every cell of CGRAM is a free value that was drawn at its acceptance or
later, so that neither that a slot holds its old pattern nor that it does not can be assumed. The draws are the model's
form of "any value" (log entries 3 and 16). -/
def Obligations.InitLeavesCgramUnknown : Prop :=
  ∀ s : State, ∃ t k, exec .init s = .next t ∧ s.draws ≤ k ∧ k < t.draws
    ∧ ∀ a, a < 64 → t.sink.cgram.read a = some ((Config.freeCgram k a).setWidth 8)
end

