-- ==== Sys2Proof/Laws/Decode.lean ====
section
/-! SUPPORT. The fields of an encoded command word, and the payload stream read back. -/

namespace Sys2Proof

/-! ### The command word -/

/-- A command word bit by bit. -/
theorem hostWord_getLsbD (op : BitVec 4) (colCur rowCur : Bool) (a b : BitVec 16) (k : Nat) :
    (hostWord op colCur rowCur a b).getLsbD k =
      if k < 16 then b.getLsbD k
      else if k < 32 then a.getLsbD (k - 16)
      else if k < 33 then rowCur
      else if k < 34 then colCur
      else if k < 36 then false
      else op.getLsbD (k - 36) := by
  change BitVec.getLsbD (w := 4 + 2 + 1 + 1 + 16 + 16)
    (op ++ 0#2 ++ BitVec.ofBool colCur ++ BitVec.ofBool rowCur ++ a ++ b) k = _
  rw [BitVec.getLsbD_append, BitVec.getLsbD_append, BitVec.getLsbD_append, BitVec.getLsbD_append, BitVec.getLsbD_append]
  rcases Nat.lt_or_ge k 16 with h | h
  · simp [h]
  rcases Nat.lt_or_ge k 32 with h2 | h2
  · simp [show ¬ k < 16 by omega, h2, show k - 16 < 16 by omega]
  rcases Nat.lt_or_ge k 33 with h3 | h3
  · obtain rfl : k = 32 := by omega
    simp
  rcases Nat.lt_or_ge k 34 with h4 | h4
  · obtain rfl : k = 33 := by omega
    simp
  simp [show ¬ k < 16 by omega, show ¬ k < 32 by omega, show ¬ k < 33 by omega, show ¬ k < 34 by omega,
    show ¬ k - 16 < 16 by omega, Nat.sub_sub, show ¬ k - 32 < 1 by omega, show ¬ k - 33 < 1 by omega]
  rcases Nat.lt_or_ge k 36 with h5 | h5
  · simp [h5]
    intro h6
    omega
  · simp [show ¬ k < 36 by omega]
    intro _
    omega

@[simp] theorem opField_hostWord (op : BitVec 4) (colCur rowCur : Bool) (a b : BitVec 16) :
    opField (hostWord op colCur rowCur a b) = op := by
  ext k hk
  simp only [opField, BitVec.getElem_extractLsb', hostWord_getLsbD]
  repeat' split
  all_goals first | omega | simp [BitVec.getLsbD_eq_getElem, hk]

@[simp] theorem aField_hostWord (op : BitVec 4) (colCur rowCur : Bool) (a b : BitVec 16) :
    aField (hostWord op colCur rowCur a b) = a := by
  ext k hk
  simp only [aField, BitVec.getElem_extractLsb', hostWord_getLsbD]
  repeat' split
  all_goals first | omega | simp [BitVec.getLsbD_eq_getElem, hk]

@[simp] theorem bField_hostWord (op : BitVec 4) (colCur rowCur : Bool) (a b : BitVec 16) :
    bField (hostWord op colCur rowCur a b) = b := by
  ext k hk
  simp [bField, BitVec.getElem_extractLsb', hostWord_getLsbD, hk]

@[simp] theorem colCurField_hostWord (op : BitVec 4) (colCur rowCur : Bool) (a b : BitVec 16) :
    colCurField (hostWord op colCur rowCur a b) = colCur := by
  simp only [colCurField, hostWord_getLsbD]
  rfl

@[simp] theorem rowCurField_hostWord (op : BitVec 4) (colCur rowCur : Bool) (a b : BitVec 16) :
    rowCurField (hostWord op colCur rowCur a b) = rowCur := by
  simp only [rowCurField, hostWord_getLsbD]
  rfl

/-- An integer that fits its field reads back. -/
theorem toInt_ofInt_of_fits16 {v : Int} (h : fits16 v = true) : (BitVec.ofInt 16 v).toInt = v := by
  simp only [fits16, Bool.and_eq_true, decide_eq_true_eq] at h
  rw [BitVec.toInt_ofInt]
  exact Int.bmod_eq_of_le (by omega) (by omega)

/-! ### The payload stream -/

theorem natOf_bitsOf {w v : Nat} (h : v < 2 ^ w) : natOf (bitsOf w v) = v := by
  induction w generalizing v with
  | zero => simp at h; subst h; rfl
  | succ w ih =>
    simp only [bitsOf, natOf]
    rw [ih (by omega : v / 2 < 2 ^ w)]
    have : v % 2 = 0 ∨ v % 2 = 1 := by omega
    rcases this with h | h <;> simp [h] <;> omega

@[simp] theorem length_bitsOf (w v : Nat) : (bitsOf w v).length = w := by
  induction w generalizing v with
  | zero => rfl
  | succ w ih => simp [bitsOf, ih]

/-- A field off the front of a stream. -/
theorem takeField_bitsOf {w v : Nat} (rest : List Bool) (h : v < 2 ^ w) :
    takeField w (bitsOf w v ++ rest) = some (v, rest) := by
  rw [takeField, if_neg (by simp), List.take_left' (length_bitsOf w v), List.drop_left' (length_bitsOf w v),
    natOf_bitsOf h]

/-- Counted fields read back. -/
theorem takeCounted_putCounted {lw w : Nat} {vs : List Nat} (hl : vs.length < 2 ^ lw) (hv : ∀ v ∈ vs, v < 2 ^ w) :
    takeCounted lw w (putCounted lw w vs) = some vs := by
  have takes : ∀ vs : List Nat, (∀ v ∈ vs, v < 2 ^ w) → takeFields w vs.length (vs.flatMap (bitsOf w)) = some vs := by
    intro vs hv
    induction vs with
    | nil => rfl
    | cons v vs ih =>
      simp only [List.length_cons, takeFields, List.flatMap_cons, takeField_bitsOf _ (hv v (by simp)),
        ih (fun x hx => hv x (by simp [hx]))]
  simp only [takeCounted, putCounted, takeField_bitsOf _ hl, takes vs hv]

end Sys2Proof
end

