-- ==== Sys2Proof/Laws/State.lean ====
section
/-! SUPPORT. What each named operation of Machine/Ops.lean does to each field of State: one lemma per field per
operation, and the same for a list of events. -/

namespace Sys2Proof.Machine

variable (s : State)

/-! ### emit -/

@[simp] theorem State.emit_cfg (ev : Event) : (s.emit ev).cfg = s.cfg := rfl
@[simp] theorem State.emit_ctl (ev : Event) : (s.emit ev).ctl = s.ctl := rfl
@[simp] theorem State.emit_initState (ev : Event) : (s.emit ev).initState = s.initState := rfl
@[simp] theorem State.emit_busy (ev : Event) : (s.emit ev).busy = s.busy := rfl
@[simp] theorem State.emit_seq (ev : Event) : (s.emit ev).seq = s.seq + 1 := rfl
@[simp] theorem State.emit_status (ev : Event) : (s.emit ev).status = s.status := rfl
@[simp] theorem State.emit_latches (ev : Event) : (s.emit ev).latches = s.latches.apply s.cfg ev := rfl
@[simp] theorem State.emit_trace (ev : Event) : (s.emit ev).trace = s.trace ++ [ev] := rfl
@[simp] theorem State.emit_sink (ev : Event) :
    (s.emit ev).sink = if isFall s.latches ev then s.sink.pulse s.cfg s.latches s.draws else s.sink := rfl
@[simp] theorem State.emit_op (ev : Event) : (s.emit ev).op = s.op := rfl
@[simp] theorem State.emit_inputs (ev : Event) : (s.emit ev).inputs = s.inputs := rfl
@[simp] theorem State.emit_draws (ev : Event) :
    (s.emit ev).draws = if isFall s.latches ev then s.draws + 1 else s.draws := rfl

/-! ### accept -/

@[simp] theorem State.accept_cfg (i : Instr) : (s.accept i).cfg = s.cfg := rfl
@[simp] theorem State.accept_ctl (i : Instr) : (s.accept i).ctl = s.ctl := rfl
@[simp] theorem State.accept_initState (i : Instr) : (s.accept i).initState = s.initState := rfl
@[simp] theorem State.accept_busy (i : Instr) : (s.accept i).busy = true := rfl
@[simp] theorem State.accept_seq (i : Instr) : (s.accept i).seq = 0 := rfl
@[simp] theorem State.accept_status (i : Instr) : (s.accept i).status = s.status := rfl
@[simp] theorem State.accept_latches (i : Instr) : (s.accept i).latches = s.latches := rfl
@[simp] theorem State.accept_trace (i : Instr) : (s.accept i).trace = s.trace := rfl
@[simp] theorem State.accept_sink (i : Instr) : (s.accept i).sink = s.sink := rfl
@[simp] theorem State.accept_op (i : Instr) : (s.accept i).op = some i := rfl
@[simp] theorem State.accept_inputs (i : Instr) : (s.accept i).inputs = s.inputs := rfl
@[simp] theorem State.accept_draws (i : Instr) : (s.accept i).draws = s.draws := rfl

/-! ### idle -/

@[simp] theorem State.idle_cfg : s.idle.cfg = s.cfg := rfl
@[simp] theorem State.idle_ctl : s.idle.ctl = s.ctl := rfl
@[simp] theorem State.idle_initState : s.idle.initState = s.initState := rfl
@[simp] theorem State.idle_busy : s.idle.busy = false := rfl
@[simp] theorem State.idle_seq : s.idle.seq = 0 := rfl
@[simp] theorem State.idle_status : s.idle.status = s.status := rfl
@[simp] theorem State.idle_latches : s.idle.latches = s.latches := rfl
@[simp] theorem State.idle_trace : s.idle.trace = s.trace := rfl
@[simp] theorem State.idle_sink : s.idle.sink = s.sink := rfl
@[simp] theorem State.idle_op : s.idle.op = none := rfl
@[simp] theorem State.idle_inputs : s.idle.inputs = s.inputs := rfl
@[simp] theorem State.idle_draws : s.idle.draws = s.draws := rfl

/-! ### complete -/

@[simp] theorem State.complete_cfg : s.complete.cfg = s.cfg := rfl
@[simp] theorem State.complete_ctl : s.complete.ctl = s.ctl := rfl
@[simp] theorem State.complete_initState : s.complete.initState = s.initState := rfl
@[simp] theorem State.complete_busy : s.complete.busy = false := rfl
@[simp] theorem State.complete_seq : s.complete.seq = 0 := rfl
@[simp] theorem State.complete_status : s.complete.status = .ok := rfl
@[simp] theorem State.complete_latches : s.complete.latches = s.latches := rfl
@[simp] theorem State.complete_trace : s.complete.trace = s.trace := rfl
@[simp] theorem State.complete_sink : s.complete.sink = s.sink := rfl
@[simp] theorem State.complete_op : s.complete.op = none := rfl
@[simp] theorem State.complete_inputs : s.complete.inputs = s.inputs := rfl
@[simp] theorem State.complete_draws : s.complete.draws = s.draws := rfl

/-! ### raise -/

@[simp] theorem State.raise_cfg (code : Status) : (s.raise code).cfg = s.cfg := rfl
@[simp] theorem State.raise_ctl (code : Status) : (s.raise code).ctl = s.ctl := rfl
@[simp] theorem State.raise_initState (code : Status) : (s.raise code).initState = s.initState := rfl
@[simp] theorem State.raise_busy (code : Status) : (s.raise code).busy = false := rfl
@[simp] theorem State.raise_seq (code : Status) : (s.raise code).seq = 0 := rfl
@[simp] theorem State.raise_status (code : Status) : (s.raise code).status = code := rfl
@[simp] theorem State.raise_latches (code : Status) : (s.raise code).latches = s.latches := rfl
@[simp] theorem State.raise_trace (code : Status) : (s.raise code).trace = s.trace := rfl
@[simp] theorem State.raise_sink (code : Status) : (s.raise code).sink = s.sink := rfl
@[simp] theorem State.raise_op (code : Status) : (s.raise code).op = none := rfl
@[simp] theorem State.raise_inputs (code : Status) : (s.raise code).inputs = s.inputs := rfl
@[simp] theorem State.raise_draws (code : Status) : (s.raise code).draws = s.draws := rfl

/-! ### enter -/

@[simp] theorem State.enter_cfg (st : InitState) : (s.enter st).cfg = s.cfg := rfl
@[simp] theorem State.enter_ctl (st : InitState) : (s.enter st).ctl = s.ctl := rfl
@[simp] theorem State.enter_initState (st : InitState) : (s.enter st).initState = st := rfl
@[simp] theorem State.enter_busy (st : InitState) : (s.enter st).busy = s.busy := rfl
@[simp] theorem State.enter_seq (st : InitState) : (s.enter st).seq = s.seq := rfl
@[simp] theorem State.enter_status (st : InitState) : (s.enter st).status = s.status := rfl
@[simp] theorem State.enter_latches (st : InitState) : (s.enter st).latches = s.latches := rfl
@[simp] theorem State.enter_trace (st : InitState) : (s.enter st).trace = s.trace := rfl
@[simp] theorem State.enter_sink (st : InitState) : (s.enter st).sink = s.sink := rfl
@[simp] theorem State.enter_op (st : InitState) : (s.enter st).op = s.op := rfl
@[simp] theorem State.enter_inputs (st : InitState) : (s.enter st).inputs = s.inputs := rfl
@[simp] theorem State.enter_draws (st : InitState) : (s.enter st).draws = s.draws := rfl

/-! ### setCursor -/

@[simp] theorem State.setCursor_cfg (c r : Int) : (s.setCursor c r).cfg = s.cfg := rfl
@[simp] theorem State.setCursor_ctl (c r : Int) :
    (s.setCursor c r).ctl = { s.ctl with currentCol := BitVec.ofInt 7 c, currentRow := BitVec.ofInt 2 r } := rfl
@[simp] theorem State.setCursor_initState (c r : Int) : (s.setCursor c r).initState = s.initState := rfl
@[simp] theorem State.setCursor_busy (c r : Int) : (s.setCursor c r).busy = s.busy := rfl
@[simp] theorem State.setCursor_seq (c r : Int) : (s.setCursor c r).seq = s.seq := rfl
@[simp] theorem State.setCursor_status (c r : Int) : (s.setCursor c r).status = s.status := rfl
@[simp] theorem State.setCursor_latches (c r : Int) : (s.setCursor c r).latches = s.latches := rfl
@[simp] theorem State.setCursor_trace (c r : Int) : (s.setCursor c r).trace = s.trace := rfl
@[simp] theorem State.setCursor_sink (c r : Int) : (s.setCursor c r).sink = s.sink := rfl
@[simp] theorem State.setCursor_op (c r : Int) : (s.setCursor c r).op = s.op := rfl
@[simp] theorem State.setCursor_inputs (c r : Int) : (s.setCursor c r).inputs = s.inputs := rfl
@[simp] theorem State.setCursor_draws (c r : Int) : (s.setCursor c r).draws = s.draws := rfl

/-! ### forgetCgram -/

@[simp] theorem State.forgetCgram_cfg : s.forgetCgram.cfg = s.cfg := rfl
@[simp] theorem State.forgetCgram_ctl : s.forgetCgram.ctl = s.ctl := rfl
@[simp] theorem State.forgetCgram_initState : s.forgetCgram.initState = s.initState := rfl
@[simp] theorem State.forgetCgram_busy : s.forgetCgram.busy = s.busy := rfl
@[simp] theorem State.forgetCgram_seq : s.forgetCgram.seq = s.seq := rfl
@[simp] theorem State.forgetCgram_status : s.forgetCgram.status = s.status := rfl
@[simp] theorem State.forgetCgram_latches : s.forgetCgram.latches = s.latches := rfl
@[simp] theorem State.forgetCgram_trace : s.forgetCgram.trace = s.trace := rfl
@[simp] theorem State.forgetCgram_sink : s.forgetCgram.sink = { s.sink with cgram := Memory.unknownCgram s.draws } := rfl
@[simp] theorem State.forgetCgram_op : s.forgetCgram.op = s.op := rfl
@[simp] theorem State.forgetCgram_inputs : s.forgetCgram.inputs = s.inputs := rfl
@[simp] theorem State.forgetCgram_draws : s.forgetCgram.draws = s.draws + 1 := rfl

/-! ### expectForced -/

@[simp] theorem State.expectForced_cfg : s.expectForced.cfg = s.cfg := rfl
@[simp] theorem State.expectForced_ctl : s.expectForced.ctl = s.ctl := rfl
@[simp] theorem State.expectForced_initState : s.expectForced.initState = s.initState := rfl
@[simp] theorem State.expectForced_busy : s.expectForced.busy = s.busy := rfl
@[simp] theorem State.expectForced_seq : s.expectForced.seq = s.seq := rfl
@[simp] theorem State.expectForced_status : s.expectForced.status = s.status := rfl
@[simp] theorem State.expectForced_latches : s.expectForced.latches = s.latches := rfl
@[simp] theorem State.expectForced_trace : s.expectForced.trace = s.trace := rfl
@[simp] theorem State.expectForced_op : s.expectForced.op = s.op := rfl
@[simp] theorem State.expectForced_inputs : s.expectForced.inputs = s.inputs := rfl
@[simp] theorem State.expectForced_draws : s.expectForced.draws = s.draws := rfl
@[simp] theorem State.expectForced_sink : s.expectForced.sink = s.sink.expectForced := rfl

/-! ### loseSink -/

@[simp] theorem State.loseSink_cfg : s.loseSink.cfg = s.cfg := rfl
@[simp] theorem State.loseSink_ctl : s.loseSink.ctl = s.ctl := rfl
@[simp] theorem State.loseSink_initState : s.loseSink.initState = s.initState := rfl
@[simp] theorem State.loseSink_busy : s.loseSink.busy = s.busy := rfl
@[simp] theorem State.loseSink_seq : s.loseSink.seq = s.seq := rfl
@[simp] theorem State.loseSink_status : s.loseSink.status = s.status := rfl
@[simp] theorem State.loseSink_latches : s.loseSink.latches = s.latches := rfl
@[simp] theorem State.loseSink_trace : s.loseSink.trace = s.trace := rfl
@[simp] theorem State.loseSink_sink : s.loseSink.sink = Sink.unknown s.draws := rfl
@[simp] theorem State.loseSink_op : s.loseSink.op = s.op := rfl
@[simp] theorem State.loseSink_inputs : s.loseSink.inputs = s.inputs := rfl
@[simp] theorem State.loseSink_draws : s.loseSink.draws = s.draws + 1 := rfl

/-! ### emitAll -/

@[simp] theorem State.emitAll_nil : s.emitAll [] = s := rfl

@[simp] theorem State.emitAll_cons (ev : Event) (evs : List Event) :
    s.emitAll (ev :: evs) = (s.emit ev).emitAll evs := rfl

theorem State.emitAll_append (xs ys : List Event) : s.emitAll (xs ++ ys) = (s.emitAll xs).emitAll ys := by
  simp [State.emitAll, List.foldl_append]

@[simp] theorem State.emitAll_cfg (evs : List Event) : (s.emitAll evs).cfg = s.cfg := by
  induction evs generalizing s with
  | nil => rfl
  | cons ev evs ih => simp [ih]

@[simp] theorem State.emitAll_ctl (evs : List Event) : (s.emitAll evs).ctl = s.ctl := by
  induction evs generalizing s with
  | nil => rfl
  | cons ev evs ih => simp [ih]

@[simp] theorem State.emitAll_initState (evs : List Event) : (s.emitAll evs).initState = s.initState := by
  induction evs generalizing s with
  | nil => rfl
  | cons ev evs ih => simp [ih]

@[simp] theorem State.emitAll_busy (evs : List Event) : (s.emitAll evs).busy = s.busy := by
  induction evs generalizing s with
  | nil => rfl
  | cons ev evs ih => simp [ih]

@[simp] theorem State.emitAll_status (evs : List Event) : (s.emitAll evs).status = s.status := by
  induction evs generalizing s with
  | nil => rfl
  | cons ev evs ih => simp [ih]

@[simp] theorem State.emitAll_op (evs : List Event) : (s.emitAll evs).op = s.op := by
  induction evs generalizing s with
  | nil => rfl
  | cons ev evs ih => simp [ih]

@[simp] theorem State.emitAll_inputs (evs : List Event) : (s.emitAll evs).inputs = s.inputs := by
  induction evs generalizing s with
  | nil => rfl
  | cons ev evs ih => simp [ih]

@[simp] theorem State.emitAll_trace (evs : List Event) : (s.emitAll evs).trace = s.trace ++ evs := by
  induction evs generalizing s with
  | nil => simp
  | cons ev evs ih => simp [ih]

@[simp] theorem State.emitAll_seq (evs : List Event) : (s.emitAll evs).seq = s.seq + evs.length := by
  induction evs generalizing s with
  | nil => rfl
  | cons ev evs ih => simp [ih]; omega

@[simp] theorem State.emitAll_latches (evs : List Event) :
    (s.emitAll evs).latches = evs.foldl (Latches.apply s.cfg) s.latches := by
  induction evs generalizing s with
  | nil => rfl
  | cons ev evs ih => simp [ih]

end Sys2Proof.Machine
end

