-- ==== Sys2Proof/Laws/Ops.lean ====
section
/-! SUPPORT. What each shared operation can do, said once: performing an operation, running a transfer, failing. -/

namespace Sys2Proof.Machine

variable (s : State)

/-- Performing an operation has two outcomes: its check passes and its events and state writes follow, or the check's
error is raised. -/
theorem State.perform_eq_next {i : Instr} {check : Status} {events : List Event} {commit : State → State} {t : State} :
    s.perform i check events commit = .next t ↔
      (check = .ok ∧ t = commit ((s.accept i).emitAll events)) ∨ (check ≠ .ok ∧ t = s.raise check) := by
  unfold State.perform
  by_cases h : check = .ok <;> simp [h, eq_comm]

theorem State.perform_of_ok {i : Instr} {check : Status} {events : List Event} {commit : State → State}
    (h : check = .ok) : s.perform i check events commit = .next (commit ((s.accept i).emitAll events)) := by
  simp [State.perform, h]

theorem State.perform_of_error {i : Instr} {check : Status} {events : List Event} {commit : State → State}
    (h : check ≠ .ok) : s.perform i check events commit = .next (s.failedWith check) := by
  simp [State.perform, h]
  rfl

/-- Raising an error writes STATUS, BUSY, SEQ and the port, nothing else. -/
theorem State.raise_eq_failedWith (code : Status) : s.raise code = s.failedWith code := rfl

/-- Events run to the end leave the latches and the trace as the events say. -/
theorem State.ran_of_emitAll {i : Instr} {evs : List Event} {t : State}
    (ht : t.trace = ((s.accept i).emitAll evs).trace) (hl : t.latches = ((s.accept i).emitAll evs).latches)
    (hb : t.busy = false) (hs : t.seq = 0) (ho : t.op = none) (hc : t.cfg = s.cfg) (hi : t.inputs = s.inputs) :
    s.Ran t evs :=
  ⟨by simpa using ht, by simpa using hl, hb, hs, ho, hc, hi⟩

theorem State.ran_complete (i : Instr) (evs : List Event) : s.Ran ((s.accept i).emitAll evs).complete evs :=
  s.ran_of_emitAll (i := i) rfl rfl rfl rfl rfl (by simp) (by simp)

theorem State.ran_idle (i : Instr) (evs : List Event) : s.Ran ((s.accept i).emitAll evs).idle evs :=
  s.ran_of_emitAll (i := i) rfl rfl rfl rfl rfl (by simp) (by simp)

/-! ### The gate -/

theorem State.gate_of_initialized {rest : Status} (h : s.ctl.initialized = true) : s.gate rest = rest := by
  simp [State.gate, h]

theorem State.gate_of_uninitialized {rest : Status} (h : s.ctl.initialized = false) :
    s.gate rest = .notInitializedError := by
  simp [State.gate, h]

theorem checkCoord_eq_ok {cfg : Cfg} {c r : Int} :
    checkCoord cfg c r = .ok ↔ 0 ≤ c ∧ c < cfg.cols ∧ 0 ≤ r ∧ r < cfg.rows := by
  unfold checkCoord inGrid
  split <;> simp_all [and_assoc]

theorem checkCoord_of_outside {cfg : Cfg} {c r : Int} (h : c < 0 ∨ cfg.cols ≤ c ∨ r < 0 ∨ cfg.rows ≤ r) :
    checkCoord cfg c r = .outOfRangeError := by
  have : ¬ (0 ≤ c ∧ c < cfg.cols ∧ 0 ≤ r ∧ r < cfg.rows) := by omega
  rw [checkCoord, if_neg]
  simpa [inGrid, and_assoc] using this

theorem goodPattern_iff {pattern : List Byte} :
    goodPattern pattern = true ↔ pattern.length = 8 ∧ ∀ b ∈ pattern, b &&& 0xE0 = 0 := by
  simp [goodPattern]

end Sys2Proof.Machine
end

