-- ==== Sys2Proof/Laws/Exec.lean ====
section
/-! SUPPORT. What exec can do, said once for every instruction: refused because the engine never makes it, or its check's error, or its
entry, its events and its state writes; and what a micro-step can do. -/

namespace Sys2Proof.Machine

variable (s : State)

/-! ### Events and the initialization state do not meet -/

theorem State.emit_enter (st : InitState) (ev : Event) : (s.enter st).emit ev = (s.emit ev).enter st := rfl

theorem State.emitAll_enter (st : InitState) (evs : List Event) :
    (s.enter st).emitAll evs = (s.emitAll evs).enter st := by
  induction evs generalizing s with
  | nil => rfl
  | cons ev evs ih => rw [State.emitAll_cons, State.emit_enter, ih]; rfl

theorem initCommit_enter (st : InitState) : initCommit (s.enter st) = initCommit s := rfl

/-- Where init's transitions fall does not matter to the state it ends in. -/
theorem execInit_eq : execInit s = .next (initCommit ((initEntry s).emitAll (initEvents s.cfg))) := by
  simp only [execInit, initEvents, State.emitAll_enter, State.emitAll_append, initCommit_enter]

/-! ### exec -/

/-- Every instruction is its check, its entry, its events and its state writes, unless the engine never makes it. -/
theorem exec_eq (i : Instr) :
    exec i s =
      match refusalOf i s.cfg with
      | some r => .refused r
      | none =>
        if checkOf i s = .ok then .next (commitOf i ((entryOf i s).emitAll (eventsOf i s)))
        else .next (s.raise (checkOf i s)) := by
  cases i <;> first
    | rfl
    | exact execInit_eq s

/-- The two ways in which exec answers a next state. -/
theorem exec_cases {i : Instr} {s t : State} (h : exec i s = .next t) :
    (checkOf i s = .ok ∧ refusalOf i s.cfg = none ∧ t = commitOf i ((entryOf i s).emitAll (eventsOf i s)))
    ∨ (checkOf i s ≠ .ok ∧ t = s.raise (checkOf i s)) := by
  rw [exec_eq] at h
  split at h
  · cases h
  · split at h
    · cases h; simp_all
    · cases h; simp_all

/-- Only a transfer that the engine never makes is refused, and no instruction faults. -/
theorem exec_next_of_form {i : Instr} (h : refusalOf i s.cfg = none) : ∃ t, exec i s = .next t := by
  rw [exec_eq, h]
  dsimp only
  split
  · exact ⟨_, rfl⟩
  · exact ⟨_, rfl⟩

theorem refusalOf_of_isOperation {i : Instr} (h : i.isOperation = true) (cfg : Cfg) : refusalOf i cfg = none := by
  cases i <;> first | rfl | cases h

/-! ### What the entry and the state writes leave -/

@[simp] theorem entryOf_cfg (i : Instr) : (entryOf i s).cfg = s.cfg := by cases i <;> rfl
@[simp] theorem entryOf_busy (i : Instr) : (entryOf i s).busy = true := by cases i <;> rfl
@[simp] theorem entryOf_seq (i : Instr) : (entryOf i s).seq = 0 := by cases i <;> rfl
@[simp] theorem entryOf_status (i : Instr) : (entryOf i s).status = s.status := by cases i <;> rfl
@[simp] theorem entryOf_latches (i : Instr) : (entryOf i s).latches = s.latches := by cases i <;> rfl
@[simp] theorem entryOf_trace (i : Instr) : (entryOf i s).trace = s.trace := by cases i <;> rfl
@[simp] theorem entryOf_op (i : Instr) : (entryOf i s).op = some i := by cases i <;> rfl
@[simp] theorem entryOf_inputs (i : Instr) : (entryOf i s).inputs = s.inputs := by cases i <;> rfl

/-- The entry of anything but init leaves the sink and its draws; init draws a CGRAM. -/
theorem entryOf_sink_of_ne_init {i : Instr} (h : i ≠ .init) : (entryOf i s).sink = s.sink := by
  cases i <;> first | rfl | exact absurd rfl h

theorem entryOf_draws_of_ne_init {i : Instr} (h : i ≠ .init) : (entryOf i s).draws = s.draws := by
  cases i <;> first | rfl | exact absurd rfl h

theorem entryOf_init_sink :
    (entryOf .init s).sink = { s.sink with cgram := Memory.unknownCgram s.draws }.expectForced := rfl

@[simp] theorem entryOf_init_draws : (entryOf .init s).draws = s.draws + 1 := rfl

@[simp] theorem commitOf_cfg (i : Instr) : (commitOf i s).cfg = s.cfg := by cases i <;> rfl
@[simp] theorem commitOf_busy (i : Instr) : (commitOf i s).busy = false := by cases i <;> rfl
@[simp] theorem commitOf_seq (i : Instr) : (commitOf i s).seq = 0 := by cases i <;> rfl
@[simp] theorem commitOf_latches (i : Instr) : (commitOf i s).latches = s.latches := by cases i <;> rfl
@[simp] theorem commitOf_trace (i : Instr) : (commitOf i s).trace = s.trace := by cases i <;> rfl
@[simp] theorem commitOf_op (i : Instr) : (commitOf i s).op = none := by cases i <;> rfl
@[simp] theorem commitOf_inputs (i : Instr) : (commitOf i s).inputs = s.inputs := by cases i <;> rfl
@[simp] theorem commitOf_sink (i : Instr) : (commitOf i s).sink = s.sink := by cases i <;> rfl
@[simp] theorem commitOf_draws (i : Instr) : (commitOf i s).draws = s.draws := by cases i <;> rfl

/-- An instruction run to its end leaves the trace and the latches as its events say, and the engine idle. -/
theorem State.ran_commitOf (i : Instr) (evs : List Event) :
    s.Ran (commitOf i ((entryOf i s).emitAll evs)) evs :=
  ⟨by simp, by simp, by simp, by simp, by simp, by simp, by simp⟩

/-! ### Micro-steps -/

@[simp] theorem afterEvent_cfg (i : Instr) : (afterEvent i s).cfg = s.cfg := by
  cases i <;> try rfl
  simp only [afterEvent, initAfter]
  repeat' split
  all_goals rfl

/-- The transitions of init change INIT_STATE alone. -/
theorem afterEvent_eq (i : Instr) : ∃ st, afterEvent i s = s.enter st := by
  cases i
  case init =>
    simp only [afterEvent, initAfter]
    repeat' split
    · exact ⟨_, rfl⟩
    · exact ⟨_, rfl⟩
    · exact ⟨s.initState, rfl⟩
  all_goals exact ⟨s.initState, rfl⟩

/-- The place where the operation in progress was accepted does not move. -/
theorem State.traceAtAcceptance_emit (ev : Event) : (s.emit ev).traceAtAcceptance = s.traceAtAcceptance := by
  simp only [State.traceAtAcceptance, State.emit_trace, State.emit_seq, List.length_append, List.length_singleton]
  rw [show s.trace.length + 1 - (s.seq + 1) = s.trace.length - s.seq by omega]
  exact List.take_append_of_le_length (Nat.sub_le _ _)

/-- An instruction's event list does not change while it runs. -/
theorem eventsOf_emit (i : Instr) (ev : Event) : eventsOf i (s.emit ev) = eventsOf i s := by
  cases i <;> try rfl
  · simp only [eventsOf, functionSetEvents, State.traceAtAcceptance_emit, State.emit_cfg]
  · simp only [eventsOf, force8NibbleEvents, State.traceAtAcceptance_emit, State.emit_cfg]

theorem eventsOf_enter (i : Instr) (st : InitState) : eventsOf i (s.enter st) = eventsOf i s := by
  cases i <;> rfl

theorem eventsOf_afterEvent (i j : Instr) : eventsOf i (afterEvent j s) = eventsOf i s := by
  obtain ⟨st, h⟩ := afterEvent_eq s j
  rw [h, eventsOf_enter]

/-- A micro-step with an event left emits it. -/
theorem State.advance_of_event {i : Instr} {ev : Event} (hb : s.busy = true) (ho : s.op = some i)
    (he : (eventsOf i s)[s.seq]? = some ev) : s.advance = afterEvent i (s.emit ev) := by
  simp [State.advance, hb, ho, he]

/-- A micro-step with no event left performs the state writes. -/
theorem State.advance_of_no_event {i : Instr} (hb : s.busy = true) (ho : s.op = some i)
    (he : (eventsOf i s)[s.seq]? = none) : s.advance = commitOf i s := by
  simp only [State.advance, hb, ho, he, if_true]

@[simp] theorem State.advance_of_idle (hb : s.busy = false) : s.advance = s := by
  simp [State.advance, hb]

theorem State.advanceN_of_idle (n : Nat) (hb : s.busy = false) : s.advanceN n = s := by
  induction n with
  | zero => rfl
  | succ n ih => rw [State.advanceN, State.advance_of_idle s hb, ih]

theorem State.drain_of_idle (hb : s.busy = false) : s.drain = s := s.advanceN_of_idle _ hb

end Sys2Proof.Machine
end

