-- ==== Sys2Proof/Laws/Memory.lean ====
section
/-! SUPPORT. The laws of a memory: a read after a write, and that every operation keeps the canonical form. -/

namespace Sys2Proof.Machine

@[simp] theorem Memory.read_nil (a : Nat) : Memory.read [] a = none := rfl

theorem Memory.read_cons (k : Nat) (b : Byte) (rest : Memory) (a : Nat) :
    Memory.read ((k, b) :: rest) a = if k = a then some b else Memory.read rest a := rfl

/-- A written cell reads as what was written, and every other cell as before. -/
theorem Memory.read_write (m : Memory) (a : Nat) (b : Byte) (x : Nat) :
    (m.write a b).read x = if x = a then some b else m.read x := by
  induction m with
  | nil => simp only [Memory.write, Memory.read_cons, Memory.read_nil, eq_comm]
  | cons cell rest ih =>
    obtain ⟨k, c⟩ := cell
    simp only [Memory.write]
    split
    · simp only [Memory.read_cons, eq_comm]
    · split
      · subst_vars
        simp only [Memory.read_cons]
        by_cases h : x = k
        · simp [h]
        · simp [h, Ne.symm h]
      · simp only [Memory.read_cons, ih]
        by_cases h : x = a
        · subst h
          rename_i h2
          simp [Ne.symm h2]
        · simp [h]

@[simp] theorem Memory.read_write_same (m : Memory) (a : Nat) (b : Byte) : (m.write a b).read a = some b := by
  simp [Memory.read_write]

theorem Memory.read_write_other (m : Memory) {a x : Nat} (b : Byte) (h : x ≠ a) : (m.write a b).read x = m.read x := by
  simp [Memory.read_write, h]

/-! ### The canonical form -/

/-- A write to a cell that is there keeps the list of addresses. -/
theorem Memory.map_fst_write {m : Memory} {a : Nat} (b : Byte) (hs : (m.map Prod.fst).Pairwise (· < ·))
    (ha : a ∈ m.map Prod.fst) : (m.write a b).map Prod.fst = m.map Prod.fst := by
  induction m with
  | nil => cases ha
  | cons cell rest ih =>
    obtain ⟨k, c⟩ := cell
    simp only [List.map_cons, List.pairwise_cons, List.mem_cons] at hs ha
    simp only [Memory.write]
    split
    · rcases ha with rfl | ha
      · omega
      · have := hs.1 a ha; omega
    · split
      · simp_all
      · simp only [List.map_cons, ih hs.2 (ha.resolve_left ‹_›)]

/-- A cell of the memory after a write is the one written or one from before. -/
theorem Memory.mem_write {m : Memory} {a : Nat} {b : Byte} {cell : Host.Cell} (h : cell ∈ m.write a b) :
    cell = (a, b) ∨ cell ∈ m := by
  induction m with
  | nil => simpa [Memory.write] using h
  | cons head rest ih =>
    obtain ⟨k, c⟩ := head
    simp only [Memory.write] at h
    split at h
    · simpa using h
    · split at h
      · simp only [List.mem_cons] at h ⊢; tauto
      · simp only [List.mem_cons] at h ⊢
        rcases h with h | h
        · exact .inr (.inl h)
        · rcases ih h with h | h <;> simp [h]

theorem Memory.wf_iff {n width : Nat} {m : Memory} :
    Memory.wf n width m = true ↔ m.map Prod.fst = List.range n ∧ ∀ cell ∈ m, cell.2.toNat < 2 ^ width := by
  simp [Memory.wf]

/-- A write of a value that fits to a cell inside the space keeps the canonical form. -/
theorem Memory.wf_write {n width a : Nat} {m : Memory} {b : Byte} (h : Memory.wf n width m = true) (hn : a < n)
    (hb : b.toNat < 2 ^ width) : Memory.wf n width (m.write a b) = true := by
  rw [Memory.wf_iff] at h ⊢
  refine ⟨?_, fun cell hc => ?_⟩
  · rw [Memory.map_fst_write b (h.1 ▸ List.pairwise_lt_range) (h.1 ▸ List.mem_range.mpr hn), h.1]
  · rcases Memory.mem_write hc with rfl | hc
    · exact hb
    · exact h.2 cell hc

theorem Memory.wf_tabulate {n width : Nat} {f : Nat → Byte} (hf : ∀ a, (f a).toNat < 2 ^ width) :
    Memory.wf n width (Memory.tabulate n f) = true := by
  rw [Memory.wf_iff]
  constructor
  · simp [Memory.tabulate, Function.comp_def]
  · intro cell hc
    simp only [Memory.tabulate, List.mem_map] at hc
    obtain ⟨a, -, rfl⟩ := hc
    exact hf a

/-- The erased memory is canonical. -/
theorem Memory.wf_fill {width : Nat} (n : Nat) {b : Byte} (hb : b.toNat < 2 ^ width) :
    Memory.wf n width (Memory.fill n b) = true := Memory.wf_tabulate (fun _ => hb)

/-- An unknown memory is canonical, whatever its draw. -/
theorem Memory.wf_unknownDdram (k : Nat) : Memory.wf 128 8 (Memory.unknownDdram k) = true :=
  Memory.wf_tabulate (fun a => (Config.freeDdram k a).isLt)

theorem Memory.wf_unknownCgram (k : Nat) : Memory.wf 64 5 (Memory.unknownCgram k) = true :=
  Memory.wf_tabulate (fun a => by
    have := (Config.freeCgram k a).isLt
    rw [BitVec.toNat_setWidth]
    omega)

/-! ### What a memory reads -/

theorem Memory.read_map_range' (f : Nat → Byte) (lo len x : Nat) :
    Memory.read ((List.range' lo len).map (fun a => (a, f a))) x
      = if lo ≤ x ∧ x < lo + len then some (f x) else none := by
  induction len generalizing lo with
  | zero => simp only [List.range'_zero, List.map_nil, Memory.read_nil]; split <;> [omega; rfl]
  | succ len ih =>
    simp only [List.range'_succ, List.map_cons, Memory.read_cons, ih]
    by_cases h : lo = x
    · subst h; simp
    · simp only [h, if_false]
      congr 1
      apply propext
      omega

theorem Memory.read_tabulate (n : Nat) (f : Nat → Byte) (x : Nat) :
    (Memory.tabulate n f).read x = if x < n then some (f x) else none := by
  rw [Memory.tabulate, List.range_eq_range', Memory.read_map_range']
  simp

/-- Every cell of the erased memory holds the byte. -/
theorem Memory.read_fill (n : Nat) (b : Byte) (x : Nat) :
    (Memory.fill n b).read x = if x < n then some b else none := Memory.read_tabulate n _ x

/-- Every cell of an unknown memory reads as its own free value. -/
theorem Memory.read_unknownDdram (k x : Nat) :
    (Memory.unknownDdram k).read x = if x < 128 then some (Config.freeDdram k x) else none := Memory.read_tabulate 128 _ x

theorem Memory.read_unknownCgram (k x : Nat) :
    (Memory.unknownCgram k).read x = if x < 64 then some ((Config.freeCgram k x).setWidth 8) else none :=
  Memory.read_tabulate 64 _ x

/-- Every cell of a canonical memory holds a value. -/
theorem Memory.read_of_wf {n width a : Nat} {m : Memory} (h : Memory.wf n width m = true) (ha : a < n) :
    ∃ b, m.read a = some b := by
  have hm : a ∈ m.map Prod.fst := (Memory.wf_iff.mp h).1 ▸ List.mem_range.mpr ha
  clear h ha
  induction m with
  | nil => cases hm
  | cons cell rest ih =>
    obtain ⟨k, c⟩ := cell
    rw [Memory.read_cons]
    split
    · exact ⟨c, rfl⟩
    · simp only [List.map_cons, List.mem_cons] at hm
      exact ih (hm.resolve_left (fun e => ‹¬ k = a› e.symm))

end Sys2Proof.Machine
end

