-- ==== Sys2Proof/Laws/PerInstr.lean ====
section
/-! SUPPORT. Statements made per instruction. TableMatch: the encoded form of an instruction has the format and width of its
row of spec/opcode_table.json, and its word agrees with the row's `match` under the row's `mask`, whatever the operands. -/

namespace Sys2Proof.Laws

/-- A row of the opcode table: its width, its `match` and its `mask`. -/
structure TableRow where
  width : Nat
  matchBits : Nat
  mask : Nat

/-- spec/opcode_table.json, row by row. -/
def tableRow : Instr → TableRow
  | .init => ⟨40, 0x0000000000, 0xF000000000⟩
  | .clear => ⟨40, 0x1000000000, 0xF000000000⟩
  | .home => ⟨40, 0x2000000000, 0xF000000000⟩
  | .position _ _ => ⟨40, 0x3000000000, 0xF000000000⟩
  | .write _ _ _ => ⟨40, 0x4000000000, 0xF000000000⟩
  | .writeChar _ => ⟨40, 0x5000000000, 0xF000000000⟩
  | .displayOnOff _ => ⟨40, 0x6000000000, 0xF000000000⟩
  | .backlight _ => ⟨40, 0x7000000000, 0xF000000000⟩
  | .createChar _ _ => ⟨40, 0x8000000000, 0xF000000000⟩
  | .displayShift _ => ⟨40, 0x9000000000, 0xF000000000⟩
  | .cursor _ _ => ⟨40, 0xA000000000, 0xF000000000⟩
  | .clearDisplay => ⟨9, 0x001, 0x1FF⟩
  | .returnHome => ⟨9, 0x002, 0x1FE⟩
  | .entryModeSet _ _ => ⟨9, 0x004, 0x1FC⟩
  | .displayControl _ _ _ => ⟨9, 0x008, 0x1F8⟩
  | .cursorDisplayShift _ _ => ⟨9, 0x010, 0x1F0⟩
  | .functionSet _ _ _ => ⟨9, 0x020, 0x1E0⟩
  | .setCgramAddr _ => ⟨9, 0x040, 0x1C0⟩
  | .setDdramAddr _ => ⟨9, 0x080, 0x180⟩
  | .writeData _ => ⟨9, 0x100, 0x100⟩
  | .force8Nibble => ⟨5, 0x03, 0x1F⟩
  | .narrow4Nibble => ⟨5, 0x02, 0x1F⟩

/-- An encoded form agrees with a row. -/
def agrees (x : Encoded) (r : TableRow) : Prop :=
  match x with
  | .host w _ => r.width = 40 ∧ w &&& BitVec.ofNat 40 r.mask = BitVec.ofNat 40 r.matchBits
  | .lcd9 w => r.width = 9 ∧ w &&& BitVec.ofNat 9 r.mask = BitVec.ofNat 9 r.matchBits
  | .lcd5 w => r.width = 5 ∧ w &&& BitVec.ofNat 5 r.mask = BitVec.ofNat 5 r.matchBits

/-- The operation number is all that the mask of a HOST row keeps. -/
theorem hostWord_masked (op : BitVec 4) (cc rc : Bool) (a b : BitVec 16) :
    hostWord op cc rc a b &&& 0xF000000000#40 = op ++ 0#36 := by
  apply BitVec.eq_of_getLsbD_eq
  intro k hk
  simp only [hostWord, BitVec.getLsbD_and, BitVec.getLsbD_append]
  interval_cases k <;> simp

/-- A HOST word agrees with the row of its operation number. -/
theorem host_agrees (op : BitVec 4) (cc rc : Bool) (a b : BitVec 16) (payload : List Bool) (m : Nat)
    (hm : op ++ 0#36 = BitVec.ofNat 40 m) : agrees (.host (hostWord op cc rc a b) payload) ⟨40, m, 0xF000000000⟩ :=
  ⟨rfl, (hostWord_masked op cc rc a b).trans hm⟩

end Sys2Proof.Laws

def Sys2Proof.Laws.TableMatch.Statement (i : Sys2Proof.Instr) : Prop :=
  ∀ cpWidth, Sys2Proof.Laws.agrees (Sys2Proof.encode cpWidth i) (Sys2Proof.Laws.tableRow i)

namespace Sys2Proof.Laws.TableMatch

theorem init : Statement .init := fun _ => by constructor <;> decide
theorem clear : Statement .clear := fun _ => by constructor <;> decide
theorem home : Statement .home := fun _ => by constructor <;> decide
theorem position (col row : Int) : Statement (.position col row) := fun _ => host_agrees _ _ _ _ _ _ _ (by decide)
theorem write (text : List Nat) (col row : Coord) : Statement (.write text col row) :=
  fun _ => host_agrees _ _ _ _ _ _ _ (by decide)
theorem writeChar (code : Byte) : Statement (.writeChar code) := fun _ => host_agrees _ _ _ _ _ _ _ (by decide)
theorem displayOnOff (state : Bool) : Statement (.displayOnOff state) := fun _ => host_agrees _ _ _ _ _ _ _ (by decide)
theorem backlight (state : Bool) : Statement (.backlight state) := fun _ => host_agrees _ _ _ _ _ _ _ (by decide)
theorem createChar (slot : Int) (pattern : List Byte) : Statement (.createChar slot pattern) :=
  fun _ => host_agrees _ _ _ _ _ _ _ (by decide)
theorem displayShift (direction : Direction) : Statement (.displayShift direction) :=
  fun _ => host_agrees _ _ _ _ _ _ _ (by decide)
theorem cursor (visible blink : Bool) : Statement (.cursor visible blink) := fun _ => host_agrees _ _ _ _ _ _ _ (by decide)
theorem clearDisplay : Statement .clearDisplay := fun _ => by constructor <;> decide
theorem returnHome : Statement .returnHome := fun _ => by constructor <;> decide
theorem entryModeSet (i s : Bool) : Statement (.entryModeSet i s) := fun _ => by cases i <;> cases s <;> exact ⟨rfl, rfl⟩
theorem displayControl (d c b : Bool) : Statement (.displayControl d c b) :=
  fun _ => by cases d <;> cases c <;> cases b <;> exact ⟨rfl, rfl⟩
theorem cursorDisplayShift (s r : Bool) : Statement (.cursorDisplayShift s r) :=
  fun _ => by cases s <;> cases r <;> exact ⟨rfl, rfl⟩
theorem functionSet (l n f : Bool) : Statement (.functionSet l n f) :=
  fun _ => by cases l <;> cases n <;> cases f <;> exact ⟨rfl, rfl⟩
theorem setCgramAddr (a : BitVec 6) : Statement (.setCgramAddr a) := fun _ => ⟨rfl, by revert a; decide⟩
theorem setDdramAddr (a : BitVec 7) : Statement (.setDdramAddr a) := fun _ => ⟨rfl, by revert a; decide⟩
theorem writeData (b : Byte) : Statement (.writeData b) := fun _ => ⟨rfl, by revert b; decide⟩
theorem force8Nibble : Statement .force8Nibble := fun _ => by constructor <;> decide
theorem narrow4Nibble : Statement .narrow4Nibble := fun _ => by constructor <;> decide

end Sys2Proof.Laws.TableMatch
end

