-- ==== Sys2Proof/Laws/Sink.lean ====
section
/-! SUPPORT. What the sink does: every operation keeps its memories canonical, and a full-byte transfer to a sink whose
interface has the engine's width delivers exactly that byte. -/

namespace Sys2Proof.Machine

/-! ### The memories stay canonical -/

/-- Both memories are in canonical form. -/
def Sink.memoryWf (sk : Sink) : Prop := Memory.wf 128 8 sk.ddram = true ∧ Memory.wf 64 5 sk.cgram = true

theorem Sink.unknown_memoryWf (k : Nat) : (Sink.unknown k).memoryWf :=
  ⟨Memory.wf_unknownDdram k, Memory.wf_unknownCgram k⟩

theorem Sink.execByte_memoryWf (cfg : Cfg) (k : Nat) (b : Byte) {sk : Sink} (h : sk.memoryWf) :
    (sk.execByte cfg k b).memoryWf := by
  unfold Sink.execByte Sink.cursorOrShift Sink.home Sink.clear
  repeat' split
  all_goals first
    | exact h
    | exact Sink.unknown_memoryWf k
    | exact ⟨Memory.wf_fill 128 (by decide), h.2⟩

theorem Sink.storeByte_memoryWf (cfg : Cfg) (k : Nat) (b : Byte) {sk : Sink} (h : sk.memoryWf) :
    (sk.storeByte cfg k b).memoryWf := by
  unfold Sink.storeByte
  cases hT : sk.target with
  | ddram => exact ⟨Memory.wf_write h.1 sk.ac.isLt b.isLt, h.2⟩
  | cgram => exact ⟨h.1, Memory.wf_write h.2 (Nat.mod_lt _ (by decide)) (by revert b; decide)⟩

theorem Sink.deliver_memoryWf (cfg : Cfg) (k : Nat) (rs : Bool) (b : Byte) {sk : Sink} (h : sk.memoryWf) :
    (sk.deliver cfg k rs b).memoryWf := by
  cases rs
  · exact Sink.execByte_memoryWf cfg k b h
  · exact Sink.storeByte_memoryWf cfg k b h

theorem Sink.latch_memoryWf (cfg : Cfg) (l : Latches) (k : Nat) {sk : Sink} (h : sk.memoryWf) :
    (sk.latch cfg l k).memoryWf := by
  unfold Sink.latch
  split
  · exact Sink.unknown_memoryWf k
  · split
    · exact Sink.deliver_memoryWf cfg k l.rs _ h
    · split
      · exact h
      · exact Sink.deliver_memoryWf cfg k l.rs _ (sk := { sk with half := none }) h

theorem Sink.converged_memoryWf (cfg : Cfg) (l : Latches) (k : Nat) : (Sink.converged cfg l k).memoryWf :=
  Sink.unknown_memoryWf k

theorem Sink.expectForced_memoryWf {sk : Sink} (h : sk.memoryWf) : sk.expectForced.memoryWf := by
  unfold Sink.expectForced
  split <;> exact h

theorem Sink.pulse_memoryWf (cfg : Cfg) (l : Latches) (k : Nat) {sk : Sink} (h : sk.memoryWf) :
    (sk.pulse cfg l k).memoryWf := by
  unfold Sink.pulse
  repeat' split
  all_goals first
    | exact Sink.latch_memoryWf cfg l k h
    | exact Sink.unknown_memoryWf k

theorem State.emit_memoryWf {s : State} (ev : Event) (h : s.sink.memoryWf) : (s.emit ev).sink.memoryWf := by
  rw [State.emit_sink]
  split
  · exact Sink.pulse_memoryWf s.cfg s.latches s.draws h
  · exact h

theorem State.emitAll_memoryWf {s : State} (evs : List Event) (h : s.sink.memoryWf) :
    (s.emitAll evs).sink.memoryWf := by
  induction evs generalizing s with
  | nil => exact h
  | cons ev evs ih => exact ih (State.emit_memoryWf ev h)

/-! ### CGRAM and instructions -/

/-- CGRAM is as it was, or the whole draw with index `k`. -/
def Sink.keepsCgram (k : Nat) (old new : Sink) : Prop := new.cgram = old.cgram ∨ new.cgram = Memory.unknownCgram k

theorem Sink.execByte_keepsCgram (cfg : Cfg) (k : Nat) (b : Byte) (sk : Sink) :
    Sink.keepsCgram k sk (sk.execByte cfg k b) := by
  unfold Sink.execByte Sink.cursorOrShift Sink.home Sink.clear
  repeat' split
  all_goals first
    | exact .inl rfl
    | exact .inr rfl

/-- A pulse with RS = 0 leaves CGRAM, or makes the whole sink a draw. -/
theorem Sink.pulse_keepsCgram {l : Latches} (cfg : Cfg) (k : Nat) (sk : Sink) (h : l.rs = false) :
    Sink.keepsCgram k sk (sk.pulse cfg l k) := by
  unfold Sink.pulse
  split
  · unfold Sink.latch Sink.deliver
    simp only [h, Bool.false_eq_true, if_false]
    repeat' split
    · exact .inr rfl
    · exact Sink.execByte_keepsCgram cfg k _ sk
    · exact .inl rfl
    · exact Sink.execByte_keepsCgram cfg k _ { sk with half := none }
  · exact .inr rfl
  · repeat' split
    all_goals exact .inr rfl

/-! ### Known and unknown -/

theorem Sink.pulse_of_known (cfg : Cfg) (l : Latches) (k : Nat) {sk : Sink} (h : sk.knowledge = .known) :
    sk.pulse cfg l k = sk.latch cfg l k := by
  simp [Sink.pulse, h]

theorem Sink.pulse_of_unknown (cfg : Cfg) (l : Latches) (k : Nat) {sk : Sink} (h : sk.knowledge = .unknown) :
    sk.pulse cfg l k = Sink.unknown k := by
  simp [Sink.pulse, h]

/-- No list of events makes an unknown sink known; the acceptance of an init comes first. -/
theorem State.emitAll_of_unknown {s : State} (evs : List Event) (h : s.sink.knowledge = .unknown) :
    (s.emitAll evs).sink = s.sink ∨ ∃ k, (s.emitAll evs).sink = Sink.unknown k := by
  induction evs generalizing s with
  | nil => exact .inl rfl
  | cons ev evs ih =>
    have hs : (s.emit ev).sink = s.sink ∨ ∃ k, (s.emit ev).sink = Sink.unknown k := by
      rw [State.emit_sink]
      split
      · exact .inr ⟨_, Sink.pulse_of_unknown _ _ _ h⟩
      · exact .inl rfl
    have hu : (s.emit ev).sink.knowledge = .unknown := by
      rcases hs with e | ⟨k, e⟩
      · rw [e]; exact h
      · rw [e]; rfl
    rcases ih hu with e | e
    · rw [State.emitAll_cons, e]; exact hs
    · exact .inr e

/-! ### One transfer delivers one byte -/

@[simp] theorem hiNibble_append_loNibble (b : Byte) : hiNibble b ++ loNibble b = b := by
  revert b; decide

@[simp] theorem loNibble_setWidth (n : Nibble) : loNibble (n.setWidth 8) = n := by
  revert n; decide

/-- The index of the draw that the last pulse of a full-byte transfer takes. -/
def lastDraw (cfg : Cfg) (draws : Nat) : Nat :=
  match cfg.mode with
  | .eightBit => draws
  | .fourBit => draws + 1

/-- A full-byte transfer to a sink in step delivers its byte, once. -/
theorem State.xfer_sink {s : State} (rs : Bool) (b : Byte) (h : s.sink.inStep s.cfg) :
    (s.emitAll (xfer s.cfg rs b)).sink = s.sink.deliver s.cfg (lastDraw s.cfg s.draws) rs b := by
  obtain ⟨hk, hw, hh⟩ := h
  unfold xfer lastDraw
  cases hm : s.cfg.mode with
  | eightBit =>
    cases hr : s.cfg.hasRw <;>
      simp [setControl, send, pulse, isFall, Latches.apply, Sink.pulse, Sink.latch, asksRead, wholeByte, hk, hm, hw, hr,
        Cfg.dw]
  | fourBit =>
    cases hr : s.cfg.hasRw <;>
      simp [setControl, send, pulse, isFall, Latches.apply, Sink.pulse, Sink.latch, asksRead, topLines, hk, hm, hw, hh, hr,
        Cfg.dw] <;>
      (congr 1; cases hs : s.sink; simp_all)

/-- The settle wait after a transfer does nothing to the sink. -/
theorem State.emit_wait_sink (s : State) (n : Nat) : (s.emit (.wait n)).sink = s.sink := by
  simp [isFall]

theorem State.instr_sink {s : State} (b : Byte) (t : Nat) (h : s.sink.inStep s.cfg) :
    (s.emitAll (instr s.cfg b t)).sink = s.sink.execByte s.cfg (lastDraw s.cfg s.draws) b := by
  simp only [instr, State.emitAll_append, State.emitAll_cons, State.emitAll_nil, State.emit_wait_sink]
  exact State.xfer_sink false b h

theorem State.data_sink {s : State} (b : Byte) (h : s.sink.inStep s.cfg) :
    (s.emitAll (data s.cfg b)).sink = s.sink.storeByte s.cfg (lastDraw s.cfg s.draws) b := by
  simp only [data, State.emitAll_append, State.emitAll_cons, State.emitAll_nil, State.emit_wait_sink]
  exact State.xfer_sink true b h

/-- Data leaves a sink in step. -/
theorem Sink.storeByte_inStep (cfg : Cfg) (k : Nat) (b : Byte) {sk : Sink} (h : sk.inStep cfg) :
    (sk.storeByte cfg k b).inStep cfg := by
  unfold Sink.storeByte
  cases hT : sk.target <;> exact ⟨h.known, h.wide, h.half⟩

/-- A byte that is not zero has a bit set. -/
theorem exists_bit_of_ne_zero (b : Byte) (hz : b ≠ 0) :
    b.getLsbD 7 = true ∨ b.getLsbD 6 = true ∨ b.getLsbD 5 = true ∨ b.getLsbD 4 = true ∨ b.getLsbD 3 = true
      ∨ b.getLsbD 2 = true ∨ b.getLsbD 1 = true ∨ b.getLsbD 0 = true := by
  revert b; decide

/-- An instruction other than a function set leaves a sink in step. -/
theorem Sink.execByte_inStep (cfg : Cfg) (k : Nat) (b : Byte) {sk : Sink} (h : sk.inStep cfg) (hz : b ≠ 0)
    (hb : b.getLsbD 7 = true ∨ b.getLsbD 6 = true ∨ b.getLsbD 5 = false) : (sk.execByte cfg k b).inStep cfg := by
  have hbit := exists_bit_of_ne_zero b hz
  unfold Sink.execByte Sink.cursorOrShift Sink.home Sink.clear
  repeat' split
  all_goals first
    | exact ⟨h.known, h.wide, h.half⟩
    | simp_all

end Sys2Proof.Machine
end

