-- ==== Sys2Proof/Tests/Slice0.lean ====
section
/-! SUPPORT. The author's tests: ill-formed terms, decoding, one step on small states, and a witness for the hypotheses of
every obligation. Expected values are the spec's own: a test names the vector of 95_test_vectors it takes them from. -/

namespace Sys2Proof.Tests

open Sys2Proof Sys2Proof.Machine

/-! ### Small configurations and states -/

/-- V-CFG-1: 16 by 2, four lines. -/
def cfg4 : Cfg := resetCfg
/-- 20 by 4, four lines. -/
def cfg20 : Cfg := Cfg.make 20 4 1 2 [10, 11, 12, 13] none none
/-- V-CFG-2: 16 by 2, eight lines, with RW and backlight pins. -/
def cfg8 : Cfg := Cfg.make 16 2 1 2 [10, 11, 12, 13, 14, 15, 16, 17] (some 7) (some 8)

/-- A display in agreement with a READY engine. -/
def shown (cfg : Cfg) : Sink where
  knowledge := .known
  wide := decide (cfg.mode = .eightBit)
  half := none
  ac := 0
  target := .ddram
  id := true
  s := false
  d := true
  c := false
  b := false
  n := decide (2 ≤ cfg.rows)
  f := false
  shift := 0
  ddram := Memory.fill 128 0x20
  cgram := Memory.fill 64 0

/-- A READY engine with its cursor cached at a cell. -/
def ready (cfg : Cfg) (col : BitVec 7) (row : BitVec 2) : State :=
  { State.constructed cfg (shown cfg) [] 1 with
    initState := .ready
    ctl := { Controller.reset with
      initialized := true, displayOn := true, entryIncrement := true, currentCol := col, currentRow := row } }

/-- The same engine in the middle of an operation. -/
def running (cfg : Cfg) (i : Instr) : State := (ready cfg 0 0).accept i

/-- The latched view of what an instruction appends. -/
def seen (i : Instr) (s : State) : List Seen := latchedView s.cfg s.latches (appended s (exec i s))

/-- The state an outcome leaves, or the one it started from. -/
def left (s : State) : Result → State
  | .next t => t
  | .fault _ => s
  | .refused _ => s

/-- The state after an instruction. -/
def after (i : Instr) (s : State) : State := left s (exec i s)

/-- A pulse on a display without an RW line. -/
def p (rs : Bool) (d : Byte) : Seen := .pulse rs none d
/-- A settle gap. -/
def w (n : Nat) : Seen := .gap n

/-- The pattern of V-CC-1. -/
def heart : List Byte := [0x00, 0x0A, 0x1F, 0x1F, 0x0E, 0x04, 0x00, 0x00]

/-! ### Ill-formed terms, one for each check -/

theorem test_illformed_position_col : (Instr.position 32768 0).wellFormed 21 = false := by decide
theorem test_illformed_position_col_low : (Instr.position (-32769) 0).wellFormed 21 = false := by decide
theorem test_illformed_position_row : (Instr.position 0 32768).wellFormed 21 = false := by decide
theorem test_illformed_write_col : (Instr.write [] (.at 40000) .current).wellFormed 21 = false := by decide
theorem test_illformed_write_row : (Instr.write [] .current (.at 40000)).wellFormed 21 = false := by decide
theorem test_illformed_write_code_point : (Instr.write [2 ^ 21] .current .current).wellFormed 21 = false := by decide
theorem test_illformed_write_length (text : List Nat) (h : text.length = 2 ^ 16) :
    (Instr.write text .current .current).wellFormed 21 = false := by
  simp [Instr.wellFormed, h]
theorem test_illformed_create_char_slot : (Instr.createChar 32768 []).wellFormed 21 = false := by decide
theorem test_illformed_create_char_length (pattern : List Byte) (h : pattern.length = 2 ^ 8) :
    (Instr.createChar 0 pattern).wellFormed 21 = false := by
  simp [Instr.wellFormed, h]
theorem test_wellformed_boundaries :
    (Instr.position 32767 (-32768)).wellFormed 21 = true
    ∧ (Instr.write [2 ^ 21 - 1] .current (.at 0)).wellFormed 21 = true := by decide

/-! ### Decoding: a word for every constructor, from the encodings of R63, R65, R68 and R71 -/

theorem test_decode_init : decode 21 (.host 0x0000000000#40 []) = .ok .init := by decide
theorem test_decode_clear : decode 21 (.host 0x1000000000#40 []) = .ok .clear := by decide
theorem test_decode_home : decode 21 (.host 0x2000000000#40 []) = .ok .home := by decide
/-- P4: `position(-1, 0)`. -/
theorem test_decode_position : decode 21 (.host 0x30FFFF0000#40 []) = .ok (.position (-1) 0) := by decide
/-- P4: `write("x", col=16, row=0)`, L = 1; a code point of 21 bits. -/
theorem test_decode_write :
    decode 21 (.host 0x4000100000#40
      ([true, false, false, false, false, false, false, false, false, false, false, false, false, false, false, false]
        ++ [false, false, false, true, true, true, true, false, false, false, false, false, false, false, false, false,
            false, false, false, false, false]))
      = .ok (.write [0x78] (.at 16) (.at 0)) := by decide
/-- P1: both coordinates defaulted, an empty text. -/
theorem test_decode_write_current :
    decode 21 (.host 0x4300000000#40 (List.replicate 16 false)) = .ok (.write [] .current .current) := by decide
theorem test_decode_write_short : decode 21 (.host 0x4300000000#40 []) = .error .shortPayload := by decide
theorem test_decode_write_char : decode 21 (.host 0x5000410000#40 []) = .ok (.writeChar 0x41) := by decide
theorem test_decode_display_on_off : decode 21 (.host 0x6000010000#40 []) = .ok (.displayOnOff true) := by decide
theorem test_decode_backlight : decode 21 (.host 0x7000010000#40 []) = .ok (.backlight true) := by decide
/-- P4: `create_char(8, [32])`. -/
theorem test_decode_create_char :
    decode 21 (.host 0x8000080000#40
      ([true, false, false, false, false, false, false, false] ++ [false, false, false, false, false, true, false, false]))
      = .ok (.createChar 8 [32]) := by decide
theorem test_decode_display_shift : decode 21 (.host 0x9000010000#40 []) = .ok (.displayShift .right) := by decide
theorem test_decode_cursor : decode 21 (.host 0xA000010000#40 []) = .ok (.cursor true false) := by decide
theorem test_decode_clear_display : decode 21 (.lcd9 0b000000001#9) = .ok .clearDisplay := by decide
theorem test_decode_return_home : decode 21 (.lcd9 0b000000010#9) = .ok .returnHome := by decide
theorem test_decode_entry_mode_set : decode 21 (.lcd9 0b000000110#9) = .ok (.entryModeSet true false) := by decide
theorem test_decode_display_control : decode 21 (.lcd9 0b000001110#9) = .ok (.displayControl true true false) := by decide
theorem test_decode_cursor_display_shift : decode 21 (.lcd9 0b000011000#9) = .ok (.cursorDisplayShift true false) := by decide
theorem test_decode_function_set : decode 21 (.lcd9 0b000101000#9) = .ok (.functionSet false true false) := by decide
theorem test_decode_set_cgram_addr : decode 21 (.lcd9 0b001001000#9) = .ok (.setCgramAddr 8) := by decide
theorem test_decode_set_ddram_addr : decode 21 (.lcd9 0b011000011#9) = .ok (.setDdramAddr 0x43) := by decide
theorem test_decode_write_data : decode 21 (.lcd9 0b101000001#9) = .ok (.writeData 0x41) := by decide
theorem test_decode_force8_nibble : decode 21 (.lcd5 0b00011#5) = .ok .force8Nibble := by decide
theorem test_decode_narrow4_nibble : decode 21 (.lcd5 0b00010#5) = .ok .narrow4Nibble := by decide

theorem test_decode_rejects_by_name :
    decode 21 (.host 0xB000000000#40 []) = .error .reservedOpcode
    ∧ decode 21 (.host 0xF000000000#40 []) = .error .reservedOpcode
    ∧ decode 21 (.lcd9 0#9) = .error .noTransfer ∧ decode 21 (.lcd5 0b10011#5) = .error .noTransfer := by decide

/-- Rule R65: bits [35:34] and unused operand bits are ignored. -/
theorem test_decode_ignores_unused_bits : decode 21 (.host 0x1FFFFFFFFF#40 [true]) = .ok .clear := by decide

theorem test_table_words :
    decodeTableWord 40 0x2000000000 = some .home ∧ decodeTableWord 40 0x4000000000 = some (.write [] (.at 0) (.at 0))
    ∧ decodeTableWord 16 0x141 = some (.writeData 0x41) ∧ decodeTableWord 8 0x02 = some .narrow4Nibble
    ∧ decodeTableWord 16 0x200 = none ∧ decodeTableWord 40 0xB000000000 = none := by decide

/-- A table word placed at reset runs as the first instruction. -/
theorem test_placed_word_runs :
    (left State.reset (step (State.reset.withFetchWord 40 0x0000000000))).initState = .ready
    ∧ (left State.reset (step (State.reset.withFetchWord 40 0x1000000000))).status = .notInitializedError
    ∧ (left State.reset (step (State.reset.withFetchWord 16 0x101))).latches.d = 0x1 := by decide

/-! ### Configuration and construction -/

/-- V-CFG-3. -/
theorem test_illformed_cfg :
    { cfg4 with dataLines := [3, 4, 5, 6, 7] }.wf = false ∧ { cfg4 with dataLines := [] }.wf = false
    ∧ { cfg4 with e := 1 }.wf = false ∧ { cfg4 with dataLines := [3, 4, 5, 3] }.wf = false
    ∧ { cfg4 with rw := some 4 }.wf = false ∧ { cfg4 with backlightPin := some 1 }.wf = false
    ∧ { cfg4 with cols := 0 }.wf = false ∧ { cfg4 with cols := -1 }.wf = false
    ∧ { cfg4 with rows := 3, rowBase := [0, 0, 0] }.wf = false ∧ { cfg4 with rows := 0, rowBase := [] }.wf = false
    ∧ (Cfg.make 65 2 1 2 [3, 4, 5, 6] none none).wf = false ∧ (Cfg.make 33 4 1 2 [3, 4, 5, 6] none none).wf = false
    ∧ { cfg4 with rowBase := [0] }.wf = false := by decide

/-- Rules R46 and R17 (d): the default table of 64 columns and 4 rows has a base of 0x80, which is refused. -/
theorem test_default_table_not_wrapped :
    (Cfg.make 64 4 1 2 [3, 4, 5, 6] none none).rowBase = [0x00, 0x40, 0x40, 0x80]
    ∧ (Cfg.make 64 4 1 2 [3, 4, 5, 6] none none).wf = false
    ∧ (Cfg.make 16 4 1 2 [3, 4, 5, 6] none none).rowBase = [0x00, 0x40, 0x10, 0x50] := by decide

/-- V-CFG-4. -/
theorem test_wellformed_cfg :
    (Cfg.make 64 2 1 2 [3, 4, 5, 6] none none).wf = true ∧ (Cfg.make 32 4 1 2 [3, 4, 5, 6] none none).wf = true
    ∧ (Cfg.make 128 1 1 2 [3, 4, 5, 6] none none).wf = true ∧ (Cfg.make 1 1 1 2 [3, 4, 5, 6] none none).wf = true := by
  decide

/-- V-CFG-1: 9 events, no pulse. -/
theorem test_construction_prefix_4 :
    State.reset.trace = [.cfgOut .rs, .cfgOut .e, .cfgOut (.d 4), .cfgOut (.d 5), .cfgOut (.d 6), .cfgOut (.d 7),
      .e false, .ctrl false false, .data 4 0x0] := by decide

/-- V-CFG-2: 16 events. -/
theorem test_construction_prefix_8 :
    constructionEvents cfg8 = [.cfgOut .rs, .cfgOut .rw, .cfgOut .e, .cfgOut (.d 0), .cfgOut (.d 1), .cfgOut (.d 2),
      .cfgOut (.d 3), .cfgOut (.d 4), .cfgOut (.d 5), .cfgOut (.d 6), .cfgOut (.d 7), .cfgOut .backlight, .e false,
      .ctrl false false, .data 8 0x00, .bl false] := by decide

/-- Rules R24, R26: the numbers of the spec. -/
theorem test_codes :
    Status.code .invalidPatternError = 4 ∧ Status.code .notInitializedError = 2 ∧ InitState.code .ready = 4 := by decide

/-! ### Pin primitives -/

/-- V-PIN-3. -/
theorem test_xfer_4bit :
    xfer cfg4 false 0x28 = [.ctrl false false, .data 4 0x2, .e true, .wait 450, .e false, .data 4 0x8, .e true, .wait 450,
      .e false] := by decide
/-- V-PIN-7. -/
theorem test_instr_8bit :
    instr cfg8 0x01 cfg8.tLong = [.ctrl false false, .data 8 0x01, .e true, .wait 450, .e false, .wait 1520000] := by decide
/-- V-PIN-3: the lines at the first falling edge are D7 = 0, D6 = 0, D5 = 1, D4 = 0; pins 3 to 6 are D4 to D7. -/
theorem test_high_nibble_lines : referenceCalls cfg4 (.data 4 0x2) =
    [.writeDigital 3 false, .writeDigital 4 true, .writeDigital 5 false, .writeDigital 6 false] := by decide
/-- V-PIN-6. -/
theorem test_xfer_hi : xferHi cfg4 0x30 = [.ctrl false false, .data 4 0x3, .e true, .wait 450, .e false] := by decide
/-- V-BYTE-1. -/
theorem test_final_bytes :
    finalByte cfg4 = 0x28 ∧ finalByte cfg8 = 0x38 ∧ finalByte { cfg8 with font5x10 := true } = 0x3C
    ∧ finalByte (Cfg.make 16 1 1 2 [3, 4, 5, 6] none none) = 0x20 := by decide

/-! ### The operations, one step each -/

/-- V-INIT-4. -/
theorem test_init_4bit :
    seen .init (ready cfg4 7 1) =
      [p false 0x3, w 4100000, p false 0x3, w 100000, p false 0x3, w 100000, p false 0x2, w 37000,
       p false 0x2, p false 0x8, w 37000, p false 0x0, p false 0x8, w 37000, p false 0x0, p false 0x1, w 1520000,
       p false 0x0, p false 0x6, w 37000, p false 0x0, p false 0xC, w 37000] := by decide
/-- V-INIT-8 and V-INIT-KEEP. -/
theorem test_init_8bit :
    (appended (ready cfg8 7 1) (exec .init (ready cfg8 7 1))).length = 48
    ∧ (after .init (ready cfg8 7 1)).ctl = (ready cfg8 0 0).ctl
    ∧ (after .init (ready cfg8 7 1)).latches.d = 0x0C := by decide
/-- V-CLR. -/
theorem test_clear :
    seen .clear (ready cfg4 7 1) = [p false 0x0, p false 0x1, w 1520000]
    ∧ (after .clear (ready cfg4 7 1)).ctl = (ready cfg4 0 0).ctl := by decide
/-- V-HOME. -/
theorem test_home :
    seen .home (ready cfg4 7 1) = [p false 0x0, p false 0x2, w 1520000]
    ∧ (after .home (ready cfg4 7 1)).ctl.currentRow = 0 := by decide
/-- V-POS-MID. -/
theorem test_position :
    seen (.position 5 2) (ready cfg20 0 0) = [p false 0x9, p false 0x9, w 37000]
    ∧ (after (.position 5 2) (ready cfg20 0 0)).ctl.currentCol = 5 := by decide
/-- V-POS-ERR on (16,2). -/
theorem test_position_out_of_range :
    (after (.position 16 0) (ready cfg4 0 0)).status = .outOfRangeError
    ∧ (after (.position 0 2) (ready cfg4 0 0)).status = .outOfRangeError
    ∧ (after (.position (-1) 0) (ready cfg4 0 0)).status = .outOfRangeError
    ∧ (after (.position 15 1) (ready cfg4 0 0)).status = .ok := by decide
/-- V-WR-2: the third character is dropped. -/
theorem test_write_truncates :
    seen (.write [0x61, 0x62, 0x63] (.at 18) (.at 3)) (ready cfg20 0 0) =
      [p false 0xE, p false 0x6, w 37000, p true 0x6, p true 0x1, w 37000, p true 0x6, p true 0x2, w 37000] := by decide
/-- V-WR-6 and V-WR-4: the row given, the column current, the low byte of a high code point. -/
theorem test_write_defaults :
    seen (.write [0x20AC] .current (.at 0)) (ready cfg4 5 1) =
      [p false 0x8, p false 0x5, w 37000, p true 0xA, p true 0xC, w 37000]
    ∧ (after (.write [0x20AC] .current (.at 0)) (ready cfg4 5 1)).ctl.currentRow = 0 := by decide
/-- V-WC. -/
theorem test_write_char :
    seen (.writeChar 0x41) (ready cfg4 5 1) = [p true 0x4, p true 0x1, w 37000]
    ∧ (after (.writeChar 0x41) (ready cfg4 5 1)).ctl = (ready cfg4 5 1).ctl := by decide
/-- V-DC-1. -/
theorem test_display_on_off :
    seen (.displayOnOff false) (ready cfg4 0 0) = [p false 0x0, p false 0x8, w 37000]
    ∧ (after (.displayOnOff false) (ready cfg4 0 0)).ctl.displayOn = false := by decide
/-- V-DC-1. -/
theorem test_cursor : seen (.cursor true true) (ready cfg4 0 0) = [p false 0x0, p false 0xF, w 37000] := by decide
/-- V-BL-1. -/
theorem test_backlight :
    appended (ready cfg8 0 0) (exec (.backlight true) (ready cfg8 0 0)) = [.bl true]
    ∧ appended (ready cfg8 0 0) (exec (.backlight true) (ready { cfg8 with blActiveHigh := false } 0 0)) = [.bl false]
    ∧ (after (.backlight true) (ready cfg4 0 0)).ctl.backlightOn = true := by decide
/-- V-SH-1. -/
theorem test_display_shift :
    seen (.displayShift .left) (ready cfg4 0 0) = [p false 0x1, p false 0x8, w 37000]
    ∧ seen (.displayShift .right) (ready cfg4 0 0) = [p false 0x1, p false 0xC, w 37000] := by decide
/-- V-CC-1. -/
theorem test_create_char :
    seen (.createChar 1 heart) (ready cfg4 3 1) =
      [p false 0x4, p false 0x8, w 37000, p true 0x0, p true 0x0, w 37000, p true 0x0, p true 0xA, w 37000,
       p true 0x1, p true 0xF, w 37000, p true 0x1, p true 0xF, w 37000, p true 0x0, p true 0xE, w 37000,
       p true 0x0, p true 0x4, w 37000, p true 0x0, p true 0x0, w 37000, p true 0x0, p true 0x0, w 37000,
       p false 0xC, p false 0x3, w 37000] := by decide +kernel
/-- V-CC-ERR, with the priority of rule R155. -/
theorem test_create_char_errors :
    (after (.createChar 8 heart) (ready cfg4 0 0)).status = .outOfRangeError
    ∧ (after (.createChar (-1) heart) (ready cfg4 0 0)).status = .outOfRangeError
    ∧ (after (.createChar 0 (heart.take 7)) (ready cfg4 0 0)).status = .invalidPatternError
    ∧ (after (.createChar 0 (heart ++ [0])) (ready cfg4 0 0)).status = .invalidPatternError
    ∧ (after (.createChar 0 [0, 0, 0, 32, 0, 0, 0, 0]) (ready cfg4 0 0)).status = .invalidPatternError
    ∧ (after (.createChar 8 [32]) (ready cfg4 0 0)).status = .outOfRangeError
    ∧ (after (.createChar 7 (List.replicate 8 31)) (ready cfg4 0 0)).status = .ok := by decide
/-- V-ERR-1: the gate comes before the range check. -/
theorem test_gate :
    (after (.position 99 99) State.reset).status = .notInitializedError
    ∧ (after (.createChar 9 []) State.reset).status = .notInitializedError
    ∧ appended State.reset (exec (.backlight true) State.reset) = [] := by decide

/-! ### The transfers of the table, one step each -/

theorem test_clear_display : seen .clearDisplay (ready cfg4 0 0) = [p false 0x0, p false 0x1, w 1520000] := by decide
theorem test_return_home : seen .returnHome (ready cfg4 0 0) = [p false 0x0, p false 0x2, w 1520000] := by decide
theorem test_entry_mode_set : seen (.entryModeSet true false) (ready cfg4 0 0) = [p false 0x0, p false 0x6, w 37000] := by decide
theorem test_display_control :
    seen (.displayControl true true false) (ready cfg4 0 0) = [p false 0x0, p false 0xE, w 37000] := by decide
theorem test_cursor_display_shift :
    seen (.cursorDisplayShift true true) (ready cfg4 0 0) = [p false 0x1, p false 0xC, w 37000] := by decide
theorem test_function_set :
    seen (.functionSet false true false) (ready cfg4 0 0) = [p false 0x2, p false 0x8, w 37000] := by decide
theorem test_set_cgram_addr : seen (.setCgramAddr 0x38) (ready cfg4 0 0) = [p false 0x7, p false 0x8, w 37000] := by decide
theorem test_set_ddram_addr : seen (.setDdramAddr 0x43) (ready cfg4 0 0) = [p false 0xC, p false 0x3, w 37000] := by decide
theorem test_write_data : seen (.writeData 0xA5) (ready cfg4 0 0) = [p true 0xA, p true 0x5, w 37000] := by decide
/-- V-BYTE-2: the second forced send has the second settle class. -/
theorem test_force8_nibble :
    seen .force8Nibble (ready cfg4 0 0) = [p false 0x3, w 4100000]
    ∧ seen .force8Nibble (after .force8Nibble (ready cfg4 0 0)) = [p false 0x3, w 100000] := by decide
/-- Log entry 7: after three comes a first again, whatever the values of the three waits. -/
theorem test_forced_wait_place :
    let c := { cfg4 with tReset1 := 7, tReset2 := 9, tReset3 := 7 }
    forcedWait c (forcedEvents c 7) = 9 ∧ forcedWait c (forcedEvents c 7 ++ forcedEvents c 9) = 7
    ∧ forcedWait c (initStep1 c) = 7 ∧ forcedWait c (initStep1 c ++ forcedEvents c 7) = 9
    ∧ forcedWait c (initEvents c) = 7 := by decide
/-- R72: entry modes other than 0x06, the cursor move, a function set that is neither FINAL nor FORCE8 in 8-bit mode, a
CGRAM address inside a slot, a DDRAM address off the grid. -/
theorem test_never_emitted :
    exec (.entryModeSet true true) (ready cfg4 0 0) = .refused .neverEmitted
    ∧ exec (.cursorDisplayShift false true) (ready cfg4 0 0) = .refused .neverEmitted
    ∧ exec (.functionSet true false false) (ready cfg4 0 0) = .refused .neverEmitted
    ∧ exec (.functionSet false true false) (ready cfg8 0 0) = .refused .neverEmitted
    ∧ exec (.setCgramAddr 0x39) (ready cfg4 0 0) = .refused .neverEmitted
    ∧ exec (.setDdramAddr 0x10) (ready cfg4 0 0) = .refused .neverEmitted
    ∧ exec (.setDdramAddr 0x50) (ready cfg4 0 0) = .refused .neverEmitted := ⟨rfl, rfl, rfl, rfl, rfl, rfl, rfl⟩
/-- R114: FORCE8 as a whole byte, in 8-bit mode. -/
theorem test_function_set_forced :
    seen (.functionSet true false false) (ready cfg8 0 0) = [.pulse false (some false) 0x30, w 4100000]
    ∧ seen (.functionSet true true false) (ready cfg8 0 0) = [.pulse false (some false) 0x38, w 37000] := by decide
theorem test_narrow4_nibble :
    seen .narrow4Nibble (ready cfg4 0 0) = [p false 0x2, w 37000]
    ∧ exec .narrow4Nibble (ready cfg8 0 0) = .refused .nibbleInEightBitMode := ⟨by decide, rfl⟩

/-! ### The display -/

/-- R55 and U1: at power-on every cell is a value of its own that nothing is known of. -/
theorem test_sink_power_on :
    State.reset.sink.ddram.read 127 = some (Config.freeDdram 0 127)
    ∧ State.reset.sink.cgram.read 63 = some ((Config.freeCgram 0 63).setWidth 8)
    ∧ State.reset.sink.ddram.read 128 = none := ⟨rfl, rfl, rfl⟩
/-- R181: an accepted init draws every CGRAM cell afresh. -/
theorem test_init_draws_cgram :
    (initEntry (ready cfg4 0 0)).sink.cgram.read 8 = some ((Config.freeCgram 1 8).setWidth 8) := rfl
/-- P1: `write("Hi")`. -/
theorem test_sink_write :
    (after (.write [0x48, 0x69] .current .current) (ready cfg4 0 0)).sink.ddram.read 0x01 = some 0x69
    ∧ (after (.write [0x48, 0x69] .current .current) (ready cfg4 0 0)).sink.ac = 0x02 := by decide
/-- P3: the pattern fills slot 1 and the counter is back at cell (3,1). -/
theorem test_sink_create_char :
    (after (.createChar 1 heart) (ready cfg4 3 1)).sink.cgram.read 0x0B = some 0x1F
    ∧ (after (.createChar 1 heart) (ready cfg4 3 1)).sink.ac = 0x43
    ∧ (after (.createChar 1 heart) (ready cfg4 3 1)).sink.target = .ddram := by decide
/-- P2: one position left. -/
theorem test_sink_shift :
    (after (.displayShift .left) (ready cfg8 0 0)).sink.shift = 0 + Sink.shiftStep false
    ∧ (Sink.shiftStep false).natAbs = 1 ∧ Sink.shiftStep true = -Sink.shiftStep false := by
  refine ⟨by rfl, ?_, ?_⟩ <;> cases h : Config.freeShiftRightUp <;> simp [Sink.shiftStep, h]

/-- R61: after a power loss only an init makes the display known again, three operations that succeed do not. -/
theorem test_sink_stays_unknown :
    (after (.writeChar 1) (after (.position 2 0) (after .home (ready cfg4 0 0).loseSink))).sink.knowledge = .unknown
    ∧ (after .init (ready cfg8 0 0).loseSink).sink.knowledge = .known
    ∧ (after .init (ready cfg8 0 0).loseSink).sink.wide = true
    ∧ (after .init (ready cfg8 0 0).loseSink).sink.ac = 0 := by decide +kernel
/-- A power loss between the forced sends and the rest of an init leaves the display unknown. -/
theorem test_power_loss_in_init :
    ((initEntry State.reset).emitAll (initStep1 cfg4)).sink.knowledge = .known
    ∧ ((initEntry State.reset).loseSink.emitAll (initEvents cfg4)).sink.knowledge = .unknown := by decide +kernel

/-! ### The sequencer and the host port -/

/-- Rule R25: one event a step, and the state writes after the last. -/
theorem test_micro_steps :
    ((ready cfg8 7 1).accept .clear).advance.seq = 1
    ∧ (((ready cfg8 7 1).accept .clear).advanceN 6).ctl.currentCol = 7
    ∧ (((ready cfg8 7 1).accept .clear).advanceN 7).ctl.currentCol = 0
    ∧ (((ready cfg8 7 1).accept .clear).advanceN 7).busy = false := by decide

/-! ### Program text -/

theorem test_read_write : readOperation "write(\"Hi\", row=1)  # c" = some (.write [0x48, 0x69] .current (.at 1)) := by decide
theorem test_read_create_char :
    readOperation "create_char(-1, [0,10,0x1F])" = some (.createChar (-1) [0, 10, 31]) := by decide
theorem test_read_display_shift : readOperation "display_shift(RIGHT)" = some (.displayShift .right) := by decide
/-- Log entry 25: a program line that no command word can hold. -/
theorem test_read_program :
    readProgram "config(cols=16, rows=2, mode=4, rw=no, backlight=no)" ["position(65536, 0)"] = none
    ∧ (readProgram "config(cols=16, rows=2, mode=4, rw=no, backlight=no)" ["position(-1, 0)"]).isSome = true := by decide
/-- Log entry 25: blank and comment lines, keywords, commas. -/
theorem test_read_lines :
    readOperations ["init()", "", "  # a comment", "home()  # b"] = some [.init, .home]
    ∧ readOperations ["init()", "nonsense"] = none
    ∧ readOperation "write(\"A\", row=1, col=2)" = some (.write [0x41] (.at 2) (.at 1))
    ∧ readOperation "write(\"A\", 2)" = some (.write [0x41] (.at 2) .current) := by decide
theorem test_read_rejects :
    readOperation "write(\"A\", rwo=1)" = none ∧ readOperation "write(\"A\", row=1, row=1)" = none
    ∧ readOperation "position(1 2)" = none ∧ readOperation "position(1,,2)" = none
    ∧ readOperation "position(1,2,)" = none ∧ readOperation "create_char(0, [1 2])" = none
    ∧ readConfig "config(cols=16, rows=2, mode=4, rw=no, backlight=yes, x=1)" = none := by decide
theorem test_read_config :
    readConfig "config(cols=16, rows=2, mode=4, rw=no, backlight=yes)"
      = some (Cfg.make 16 2 1 2 [10, 11, 12, 13] none (some 8)) := by decide

/-! ### Witnesses: for every obligation with hypotheses, states and operands that meet all of them, at the boundaries -/

/-- A state with the host's coming moves. -/
def withMoves (s : State) (moves : List Input) : State := { s with inputs := moves }

theorem ready_idleInv : (ready cfg4 15 1).IdleInv where
  idle := rfl
  seq := rfl
  op := rfl
  cfg := by decide
  initialized := rfl
  initState := .inr rfl
  enable := rfl
  col := by decide
  row := by decide
  entryMode := fun _ => ⟨rfl, rfl⟩
  backlight := rfl
  rw := rfl
  data := by decide
  status := by decide

theorem ready_synced : (ready cfg4 15 1).Synced where
  bytes := by decide
  inStep := ⟨rfl, by decide, rfl⟩
  target := rfl
  increment := rfl
  noShift := rfl
  display := rfl
  cursorShown := rfl
  blink := rfl
  lines := by decide
  font := rfl

/-- Every cause of rule R17, each the only one of its construction. -/
theorem witness_ConstructionRejectsIllFormedConfig :
    (withMoves State.reset [.construct cfg8]).cfg.wf = true
    ∧ (withMoves State.reset [.construct cfg8]).inputs = .construct cfg8 :: []
    ∧ cfg8.wf = true
    ∧ (withMoves State.reset [.construct { cfg4 with cols := 0 }]).inputs = .construct { cfg4 with cols := 0 } :: []
    ∧ { cfg4 with cols := 0 }.wf = false ∧ { cfg4 with dataLines := [] }.wf = false ∧ { cfg4 with e := 1 }.wf = false
    ∧ { cfg4 with rowBase := [0] }.wf = false ∧ { cfg4 with rowBase := [0, 0x71] }.wf = false
    ∧ { State.reset with cfg := { cfg4 with cols := 0 } }.cfg.wf = false := by
  decide

theorem witness_ConstructionLeavesResetValues :
    (withMoves State.reset [.construct cfg8]).cfg.wf = true
    ∧ (withMoves State.reset [.construct cfg8]).inputs = .construct cfg8 :: [] ∧ cfg8.wf = true := by decide

theorem witness_ResetAndPowerLossAtDisplay :
    (withMoves (ready cfg4 0 0) [.construct cfg8]).cfg.wf = true ∧ cfg8.wf = true
    ∧ (withMoves (ready cfg4 0 0) [.construct cfg8]).inputs = .construct cfg8 :: []
    ∧ (withMoves (ready cfg4 0 0) [.construct cfg8]).busy = false
    ∧ (withMoves (running cfg4 .clear) [.construct cfg8]).inputs = .construct cfg8 :: []
    ∧ (withMoves (running cfg4 .clear) [.construct cfg8]).busy = true
    ∧ (withMoves (ready cfg4 0 0) [.powerDisplay]).inputs = .powerDisplay :: [] := by decide

theorem witness_StepRunsDecodedInstruction :
    (withMoves State.reset [.operate (.host 0x2000000000#40 [])]).cfg.wf = true
    ∧ (withMoves State.reset [.operate (.host 0x2000000000#40 [])]).busy = false
    ∧ (withMoves State.reset [.operate (.host 0x2000000000#40 [])]).inputs = .operate (.host 0x2000000000#40 []) :: []
    ∧ (withMoves State.reset [.start (.host 0x2000000000#40 [])]).inputs = .start (.host 0x2000000000#40 []) :: []
    ∧ decode cfg4.cpWidth (.host 0x2000000000#40 []) = .ok .home := by decide

theorem witness_IdleEngineWaits :
    State.reset.cfg.wf = true ∧ State.reset.busy = false ∧ State.reset.inputs = []
    ∧ (withMoves State.reset [.wait]).inputs = .wait :: [] := by decide

theorem witness_PresentingWhileBusyIsRefused :
    (running cfg4 .clear).cfg.wf = true ∧ (running cfg4 .clear).busy = true
    ∧ (withMoves (running cfg4 .clear) [.operate (.lcd9 1)]).inputs = .operate (.lcd9 1) :: []
    ∧ (withMoves (running cfg4 .clear) [.start (.lcd9 1)]).inputs = .start (.lcd9 1) :: [] := by decide

/-- The first and the last reserved opcode, and words of write_char and of write that differ in unused
bits only. -/
theorem witness_ReservedOpcodesAreRefused :
    (withMoves State.reset [.operate (.host 0xB000000000#40 [])]).cfg.wf = true
    ∧ (withMoves State.reset [.operate (.host 0xB000000000#40 [])]).busy = false
    ∧ (withMoves State.reset [.operate (.host 0xB000000000#40 [])]).inputs = .operate (.host 0xB000000000#40 []) :: []
    ∧ 11 ≤ (0xB000000000#40 >>> 36).toNat ∧ 11 ≤ (0xF000000000#40 >>> 36).toNat
    ∧ ¬ 11 ≤ (0xA000000000#40 >>> 36).toNat
    ∧ 0x5000410000#40 &&& 0xF000FF0000#40 = 0x5FFF41FFFF#40 &&& 0xF000FF0000#40
    ∧ 0x4200070001#40 &&& 0xF30000FFFF#40 = 0x4E00090001#40 &&& 0xF30000FFFF#40 := by decide

theorem witness_DecodeInvertsEncode :
    (Instr.position 32767 (-32768)).wellFormed 21 = true
    ∧ (Instr.write [0, 2 ^ 21 - 1] .current (.at (-1))).wellFormed 21 = true
    ∧ (Instr.createChar (-1) [0, 255]).wellFormed 21 = true := by decide

/-- Both ends of every range of words. -/
theorem witness_TransferWordsDecodeByHighestBit :
    decodeLcd9 511 = .ok (.writeData 255) ∧ decodeLcd9 256 = .ok (.writeData 0)
    ∧ decodeLcd9 255 = .ok (.setDdramAddr 127) ∧ decodeLcd9 128 = .ok (.setDdramAddr 0)
    ∧ decodeLcd9 127 = .ok (.setCgramAddr 63) ∧ decodeLcd9 64 = .ok (.setCgramAddr 0)
    ∧ decodeLcd9 63 = .ok (.functionSet true true true) ∧ decodeLcd9 32 = .ok (.functionSet false false false)
    ∧ decodeLcd9 31 = .ok (.cursorDisplayShift true true) ∧ decodeLcd9 16 = .ok (.cursorDisplayShift false false)
    ∧ decodeLcd9 15 = .ok (.displayControl true true true) ∧ decodeLcd9 8 = .ok (.displayControl false false false)
    ∧ decodeLcd9 7 = .ok (.entryModeSet true true) ∧ decodeLcd9 4 = .ok (.entryModeSet false false)
    ∧ decodeLcd9 3 = .ok .returnHome ∧ decodeLcd9 2 = .ok .returnHome
    ∧ decodeLcd9 1 = .ok .clearDisplay ∧ decodeLcd9 0 = .error .noTransfer := by decide

theorem witness_EventsSetLatches : cfg8.hasBl = true := by decide

theorem witness_ByteTransferEvents : cfg4.mode = .fourBit ∧ cfg8.mode = .eightBit := by decide

theorem witness_InstructionBytesAtDefaults : cfg4.standardBytes = true := by decide

theorem witness_EmittedEventsAreWellTimed : ∃ t, exec .init State.reset = .next t := ⟨_, rfl⟩

theorem witness_StepNeverReadsDisplay :
    neverReads State.reset.trace = true ∧ ∃ t, step (State.reset.withFetchWord 40 0) = .next t := ⟨by decide, _, rfl⟩

/-- Two different segments with one latched view: the control lines are set twice in one of them. -/
theorem witness_LatchedViewDecidesSink :
    latchedView cfg4 (ready cfg4 0 0).latches [.ctrl true false, .ctrl false false, .data 4 3, .e true, .wait 450, .e false]
      = latchedView cfg4 (ready cfg4 0 0).latches [.ctrl false false, .data 4 3, .e true, .wait 450, .e false] := by
  decide

/-- The four data lines written in descending order, all of them. -/
theorem witness_AnyLineWriteOrderShowsLatches :
    cfg4.wf = true ∧ shows cfg4 (fun _ => false) State.reset.latches
    ∧ (∀ w v, Event.data 4 0xA = .data w v → w = cfg4.dw)
    ∧ realises cfg4 (fun _ => false) (.data 4 0xA)
        [.writeDigital 6 true, .writeDigital 5 false, .writeDigital 4 true, .writeDigital 3 false] := by
  refine ⟨by decide, ⟨rfl, rfl, by simp [cfg4, resetCfg, Cfg.make], by simp [cfg4, resetCfg, Cfg.make], ?_⟩, ?_, ?_⟩
  · intro k _ _
    simp [State.reset, State.constructed, Latches.reset]
  · intro w v h
    cases h
    rfl
  · refine ⟨[(3, false), (4, true), (5, false), (6, true)], ?_, ?_, ?_⟩
    · exact List.reverse_perm [GpioCall.writeDigital 3 false, .writeDigital 4 true, .writeDigital 5 false, .writeDigital 6 true]
    · exact List.Sublist.refl _
    · intro x hx hn
      exact absurd hx hn

theorem witness_DdramAddressIsBasePlusColumn :
    cfg20.wf = true ∧ (0 : Int) ≤ 19 ∧ (19 : Int) < cfg20.cols ∧ (0 : Int) ≤ 3 ∧ (3 : Int) < cfg20.rows := by decide

theorem witness_FiveGeometriesAddress :
    ((20, 4) : Int × Int) ∈ ([(16, 1), (16, 2), (16, 4), (20, 2), (20, 4)] : List (Int × Int))
    ∧ (0 : Int) ≤ 19 ∧ (19 : Int) < 20 ∧ (0 : Int) ≤ 3 ∧ (3 : Int) < 4 := by decide

theorem witness_InitSequenceSize :
    (∃ t, exec .init (ready cfg4 0 0) = .next t) ∧ cfg4.mode = .fourBit ∧ cfg4.tPw = 450 ∧ cfg4.tReset1 = 4100000
    ∧ cfg4.tReset2 = 100000 ∧ cfg4.tReset3 = 100000 ∧ cfg4.tShort = 37000 ∧ cfg4.tLong = 1520000
    ∧ (∃ t, exec .init (ready cfg8 0 0) = .next t) ∧ cfg8.mode = .eightBit ∧ State.reset.cfg = (ready cfg4 0 0).cfg
    ∧ (∃ t, exec .init State.reset = .next t) :=
  ⟨⟨_, rfl⟩, by decide, rfl, rfl, rfl, rfl, rfl, rfl, ⟨_, rfl⟩, by decide, rfl, ⟨_, rfl⟩⟩

theorem witness_InitStateTransitions : Instr.clear ≠ .init ∧ ∃ v, startOp .clear (ready cfg4 0 0) = .next v :=
  ⟨by decide, _, rfl⟩

theorem witness_InitIsIdempotent : ∃ t, exec .init State.reset = .next t := ⟨_, rfl⟩

theorem witness_ClearAndHomeResults :
    (ready cfg4 0 0).ctl.initialized = true ∧ State.reset.ctl.initialized = false := by decide

/-- The last legal cell, and one step outside it on each of the four sides. -/
theorem witness_PositionResult :
    (ready cfg4 0 0).ctl.initialized = true ∧ (0 : Int) ≤ 15 ∧ (15 : Int) < cfg4.cols ∧ (0 : Int) ≤ 1
    ∧ (1 : Int) < cfg4.rows ∧ ¬ (16 : Int) < cfg4.cols ∧ cfg4.cols ≤ 16 ∧ cfg4.rows ≤ 2 ∧ (-1 : Int) < 0
    ∧ State.reset.ctl.initialized = false := by decide

theorem witness_WriteResult :
    (ready cfg4 15 1).ctl.initialized = true ∧ resolve .current (ready cfg4 15 1).col = 15
    ∧ resolve (.at 1) (ready cfg4 15 1).row = 1 ∧ (15 : Int) < cfg4.cols ∧ (1 : Int) < cfg4.rows
    ∧ resolve (.at 16) (ready cfg4 15 1).col = 16 ∧ cfg4.cols ≤ 16 ∧ State.reset.ctl.initialized = false := by decide

theorem witness_WriteTruncatesAtRowEnd :
    exec (.write [0x41, 0x42] .current .current) (ready cfg4 15 1)
      = .next (after (.write [0x41, 0x42] .current .current) (ready cfg4 15 1))
    ∧ (after (.write [0x41, 0x42] .current .current) (ready cfg4 15 1)).status = .ok := ⟨rfl, by decide⟩

theorem witness_WriteCharResult :
    (ready cfg4 0 0).ctl.initialized = true ∧ State.reset.ctl.initialized = false := by decide

theorem witness_DisplayControlOperationsResults :
    (ready cfg4 0 0).ctl.initialized = true ∧ State.reset.ctl.initialized = false := by decide

theorem witness_BacklightResult :
    (ready cfg8 0 0).ctl.initialized = true ∧ State.reset.ctl.initialized = false := by decide

theorem witness_DisplayShiftResult :
    (ready cfg4 0 0).ctl.initialized = true ∧ State.reset.ctl.initialized = false := by decide

/-- Slots 0, 7, 8 and -1; a pattern of the highest legal bytes, a short one, a long one, one with bit 5 set. -/
theorem witness_CreateCharResult :
    (ready cfg4 0 0).ctl.initialized = true ∧ (0 : Int) ≤ 7 ∧ (7 : Int) ≤ 7 ∧ (List.replicate 8 (31 : Byte)).length = 8
    ∧ (∀ b ∈ List.replicate 8 (31 : Byte), b &&& 0xE0 = 0) ∧ (7 : Int) < 8 ∧ (-1 : Int) < 0
    ∧ (heart.take 7).length ≠ 8 ∧ (heart ++ [0]).length ≠ 8
    ∧ (∃ b ∈ ([0, 0, 0, 32, 0, 0, 0, 0] : List Byte), b &&& 0xE0 ≠ 0) ∧ State.reset.ctl.initialized = false := by decide

/-- One operation of each row of the table of rule R139. -/
theorem witness_OperationSizes :
    exec .clear (ready cfg4 15 1) = .next (after .clear (ready cfg4 15 1))
    ∧ (after .clear (ready cfg4 15 1)).status = .ok ∧ (after .home (ready cfg4 15 1)).status = .ok
    ∧ (after (.position 15 1) (ready cfg4 0 0)).status = .ok ∧ (after (.writeChar 0) (ready cfg4 0 0)).status = .ok
    ∧ (after (.write [0x41] .current .current) (ready cfg4 15 1)).status = .ok
    ∧ 1 = min [0x41].length (cfg4.cols - resolve .current (ready cfg4 15 1).col).toNat
    ∧ (after (.createChar 7 heart) (ready cfg4 0 0)).status = .ok
    ∧ (after (.backlight true) (ready cfg8 0 0)).status = .ok ∧ cfg8.hasBl = true ∧ cfg4.hasBl = false :=
  ⟨rfl, by decide, by decide, by decide, by decide, by decide, by decide, by decide, by decide, by decide, by decide⟩

theorem witness_InstructionBytesAreInventoried :
    Instr.isOperation (.createChar 7 heart) = true ∧ (∀ v, Instr.createChar 7 heart ≠ .backlight v)
    ∧ (ready cfg4 15 1).IdleInv ∧ (ready cfg4 15 1).cfg.standardBytes = true
    ∧ ∃ t, exec (.createChar 7 heart) (ready cfg4 15 1) = .next t :=
  ⟨rfl, by simp, ready_idleInv, by decide, _, rfl⟩

theorem witness_StatusOfEveryOperation :
    Instr.isOperation (.position 16 0) = true ∧ (∃ t, exec (.position 16 0) (ready cfg4 0 0) = .next t)
    ∧ Instr.position 16 0 ≠ .init ∧ (ready cfg4 0 0).ctl.initialized = true ∧ State.reset.ctl.initialized = false :=
  ⟨rfl, ⟨_, rfl⟩, by decide, rfl, rfl⟩

theorem witness_FailedOperationWritesOnlyStatus :
    Instr.isOperation .clear = true ∧ exec .clear State.reset = .next (after .clear State.reset)
    ∧ (after .clear State.reset).status ≠ .ok := ⟨rfl, rfl, by decide⟩

theorem witness_OnlyTheListedWritersWrite :
    (∃ t, exec (.writeChar 0x41) (ready cfg4 0 0) = .next t) ∧ Instr.writeChar 0x41 ≠ .init
    ∧ (∀ v, Instr.writeChar 0x41 ≠ .displayOnOff v) ∧ (∀ v b, Instr.writeChar 0x41 ≠ .cursor v b)
    ∧ (∀ v, Instr.writeChar 0x41 ≠ .backlight v) ∧ Instr.writeChar 0x41 ≠ .clear ∧ Instr.writeChar 0x41 ≠ .home
    ∧ (∀ c r, Instr.writeChar 0x41 ≠ .position c r) ∧ (∀ x c r, Instr.writeChar 0x41 ≠ .write x c r)
    ∧ Instr.isOperation (.setDdramAddr 0) = false ∧ (∃ t, exec (.setDdramAddr 0) (ready cfg4 0 0) = .next t) :=
  ⟨⟨_, rfl⟩, by simp, by simp, by simp, by simp, by simp, by simp, by simp, by simp, rfl, ⟨_, rfl⟩⟩

theorem witness_EngineIgnoresDisplay : ∃ t, exec (.writeChar 0x41) (ready cfg4 0 0) = .next t := ⟨_, rfl⟩

/-- The ends of the inventory: the last slot and the last cell, and addresses beside them; a two-line 8-bit engine, whose
FORCE8 is not its FINAL. -/
theorem witness_TransferResults :
    ¬ (false = true ∧ true = false) ∧ cfg8.mode = .eightBit ∧ ¬ false = decide (2 ≤ cfg8.rows)
    ∧ (true = decide (cfg8.mode = .eightBit) ∧ true = decide (2 ≤ cfg8.rows) ∧ false = cfg8.font5x10)
    ∧ ¬ true = decide (cfg4.mode = .eightBit) ∧ cfg4.mode ≠ .eightBit ∧ 7 < 8 ∧ (57 : BitVec 6).toNat % 8 ≠ 0
    ∧ cfg4.rowBase[1]? = some 0x40 ∧ ((15 : Nat) : Int) < cfg4.cols ∧ 0x40 + 15 ≤ 0x7F
    ∧ isCellAddress cfg4 0x4F = true ∧ isCellAddress cfg4 0x50 = false := by decide

theorem witness_TransferResults_off_grid :
    ∀ base ∈ cfg4.rowBase, ∀ c : Nat, (c : Int) < cfg4.cols → base + c ≠ (0x50 : BitVec 7).toNat := by
  intro base hb c hc
  have hc' : (c : Int) < 16 := hc
  have hb' : base = 0x00 ∨ base = 0x40 := by simpa [cfg4, resetCfg, Cfg.make, defaultRowBase] using hb
  have : (0x50 : BitVec 7).toNat = 80 := rfl
  omega

theorem witness_NibbleTransferResults :
    (ready cfg4 0 0).cfg.mode = .fourBit ∧ (ready cfg4 0 0).seq = 0
    ∧ (∀ t, (instrHi cfg4 (functionByte cfg4 true false false) t).isSuffixOf (ready cfg4 0 0).trace = false)
    ∧ (ready cfg8 0 0).cfg.mode = .eightBit := by
  refine ⟨by decide, rfl, ?_, by decide⟩
  intro t
  rfl

theorem witness_SequencerAgreesWithExec :
    (ready cfg4 0 0).busy = false ∧ (ready cfg4 0 0).seq = 0 ∧ (ready cfg4 0 0).op = none
    ∧ (∃ u, startOp .clear (ready cfg4 0 0) = .next u)
    ∧ startOp .narrow4Nibble (ready cfg8 0 0) = .refused .nibbleInEightBitMode := ⟨rfl, rfl, rfl, ⟨_, rfl⟩, rfl⟩

theorem witness_MicroStepEmitsNextEvent :
    (running cfg4 .clear).cfg.wf = true ∧ (running cfg4 .clear).busy = true ∧ (running cfg4 .clear).op = some .clear
    ∧ (running cfg4 .clear).inputs = [] ∧ (withMoves (running cfg4 .clear) [.wait]).inputs = .wait :: []
    ∧ (eventsOf .clear (running cfg4 .clear))[(running cfg4 .clear).seq]? = some (.ctrl false false)
    ∧ (eventsOf .clear ((running cfg4 .clear).advanceN 10)).length ≤ ((running cfg4 .clear).advanceN 10).seq
    ∧ ((running cfg4 .clear).advanceN 10).busy = true ∧ ((running cfg4 .clear).advanceN 10).op = some .clear := by decide

theorem witness_ForcedSendsConverge :
    State.reset.cfg.standardBytes = true ∧ State.reset.sink.knowledge = .unknown
    ∧ (ready cfg4 0 0).cfg.standardBytes = true ∧ (ready cfg4 0 0).sink.knowledge = .known := by decide

theorem witness_InitSynchronisesDisplay : State.reset.cfg.standardBytes = true := by decide

theorem witness_OperationsKeepDisplaySynced :
    Instr.isOperation (.createChar 7 heart) = true ∧ (ready cfg4 15 1).Synced
    ∧ ∃ t, exec (.createChar 7 heart) (ready cfg4 15 1) = .next t := ⟨rfl, ready_synced, _, rfl⟩

theorem witness_ClearBlanksDisplay : (ready cfg4 15 1).ctl.initialized = true ∧ (ready cfg4 15 1).Synced :=
  ⟨rfl, ready_synced⟩

theorem witness_OperationsThatStoreNothing :
    (ready cfg4 15 1).Synced ∧ exec (.position 0 0) (ready cfg4 15 1) = .next (after (.position 0 0) (ready cfg4 15 1))
    ∧ (after (.position 0 0) (ready cfg4 15 1)).status = .ok
    ∧ exec .home (ready cfg4 15 1) = .next (after .home (ready cfg4 15 1))
    ∧ (after .home (ready cfg4 15 1)).status = .ok
    ∧ exec (.displayShift .right) (ready cfg4 15 1) = .next (after (.displayShift .right) (ready cfg4 15 1))
    ∧ (after (.displayShift .right) (ready cfg4 15 1)).status = .ok :=
  ⟨ready_synced, rfl, by decide, rfl, by decide, rfl, by decide⟩

/-- The last cell of the last row, with a text that fits and one that is cut. -/
theorem witness_WriteLandsInRow :
    (ready cfg4 15 1).cfg.wf = true ∧ (ready cfg4 15 1).ctl.initialized = true ∧ (ready cfg4 15 1).Synced
    ∧ 15 = resolve .current (ready cfg4 15 1).col ∧ 1 = resolve .current (ready cfg4 15 1).row
    ∧ (0 : Int) ≤ 15 ∧ 15 < (ready cfg4 15 1).cfg.cols ∧ (0 : Int) ≤ 1 ∧ 1 < (ready cfg4 15 1).cfg.rows
    ∧ [0x41, 0x42][0]? = some 0x41 ∧ ((0 : Nat) : Int) < (ready cfg4 15 1).cfg.cols - 15
    ∧ (([] : List Nat).length : Int) < (ready cfg4 15 1).cfg.cols - 15 :=
  ⟨by decide, rfl, ready_synced, by decide, by decide, by decide, by decide, by decide, by decide, rfl, by decide,
    by decide⟩

theorem witness_WriteCharLandsAtCounter : (ready cfg4 15 1).ctl.initialized = true ∧ (ready cfg4 15 1).Synced :=
  ⟨rfl, ready_synced⟩

theorem witness_CreateCharFillsSlot :
    (ready cfg4 15 1).ctl.initialized = true ∧ (ready cfg4 15 1).Synced ∧ 7 ≤ 7 ∧ heart.length = 8
    ∧ (∀ b ∈ heart, b &&& 0xE0 = 0) ∧ heart[7]? = some 0 := ⟨rfl, ready_synced, by decide, by decide, by decide, by decide⟩

theorem witness_TransferEffectsAtDisplay :
    (ready cfg4 0 0).cfg.standardBytes = true ∧ (ready cfg4 0 0).sink.inStep (ready cfg4 0 0).cfg
    ∧ (ready cfg4 0 0).sink.target = .ddram
    ∧ ({ shown cfg4 with target := .cgram } : Sink).inStep cfg4
    ∧ ({ shown cfg4 with target := .cgram } : Sink).target = .cgram :=
  ⟨by decide, ⟨rfl, by decide, rfl⟩, rfl, ⟨rfl, by decide, rfl⟩, rfl⟩

theorem witness_NibbleEffectsAtDisplay :
    (ready cfg4 0 0).cfg.mode = .fourBit ∧ (ready cfg4 0 0).cfg.standardBytes = true
    ∧ (Instr.force8Nibble = .force8Nibble ∧ (0x3 : Nibble) = 0x3)
    ∧ (Instr.narrow4Nibble = .narrow4Nibble ∧ (0x2 : Nibble) = 0x2)
    ∧ ({ shown cfg4 with wide := true } : Sink).wide = true ∧ ({ shown cfg4 with wide := true } : Sink).knowledge = .known
    ∧ (shown cfg4).wide = false ∧ (shown cfg4).half = none ∧ State.reset.sink.knowledge = .unknown
    ∧ State.reset.cfg.mode = .fourBit ∧ State.reset.cfg.standardBytes = true := by decide

theorem ready_inv : (ready cfg4 15 1).Inv := ⟨by decide, ready_idleInv⟩

theorem witness_StepKeepsInvariant : (ready cfg4 15 1).Inv ∧ ∃ t, step (ready cfg4 15 1) = .next t := ⟨ready_inv, _, rfl⟩

theorem witness_StepKeepsMemoryCanonical :
    (ready cfg4 15 1).memoryWf = true ∧ ∃ t, step ((ready cfg4 15 1).withFetchWord 40 0x1000000000) = .next t :=
  ⟨by decide, _, rfl⟩

theorem witness_StepNeverChangesConfig :
    (∃ t, step ((ready cfg4 15 1).withFetchWord 40 0) = .next t)
    ∧ (∀ cfg rest, ((ready cfg4 15 1).withFetchWord 40 0).inputs ≠ .construct cfg :: rest) :=
  ⟨⟨_, rfl⟩, by simp [State.withFetchWord, placeWord]⟩

/-- One state for each of the three outcomes. -/
theorem witness_UnknownDisplayStaysUnknown :
    State.reset.sink.knowledge = .unknown ∧ (∃ t, step (State.reset.withFetchWord 40 0x1000000000) = .next t)
    ∧ (∃ t, step (withMoves State.reset [.start (.host 0 [])]) = .next t)
    ∧ (∃ t, step (State.reset.withFetchWord 40 0) = .next t) := ⟨rfl, ⟨_, rfl⟩, ⟨_, rfl⟩, ⟨_, rfl⟩⟩

/-- Two sleeps that are long enough together, one in each unit. -/
theorem test_wait_in_milliseconds :
    realises cfg4 (fun _ => false) (.wait 4100000) [.sleepMilliseconds 4, .sleepMicroseconds 100] := by
  constructor
  · intro c hc
    rcases List.mem_cons.1 hc with rfl | hc
    · rfl
    · rcases List.mem_singleton.1 hc with rfl
      rfl
  · decide

end Sys2Proof.Tests
end

section
/-! SUPPORT. The facts of the engine's state that the statements of this family share: what a well-formed CFG is, what one
step can do, how a running operation ends, and what the display cannot change. -/

namespace Sys2Proof.Machine

variable (s : State)

/-! ### A well-formed CFG -/

theorem distinctPins_iff_nodup (ps : List Nat) : distinctPins ps = true ↔ ps.Nodup := by
  induction ps with
  | nil => simp [distinctPins]
  | cons p ps ih => simp [distinctPins, ih]

/-- Rule R17, cause by cause. -/
theorem Cfg.wf_iff {cfg : Cfg} :
    cfg.wf = true ↔
      (cfg.dataLines.length = 4 ∨ cfg.dataLines.length = 8)
      ∧ cfg.pins.Nodup
      ∧ (0 < cfg.cols ∧ (cfg.rows = 1 ∨ cfg.rows = 2 ∨ cfg.rows = 4))
      ∧ ((cfg.rowBase.length : Int) = cfg.rows ∧ ∀ base ∈ cfg.rowBase, (base : Int) + cfg.cols - 1 ≤ 0x7F) := by
  simp [Cfg.wf, distinctPins_iff_nodup, and_assoc, or_assoc]

/-- A cell's column fits the 7 bits and its row the 2 bits of the cached coordinate (rule R23). -/
theorem Cfg.geometry_bounds {cfg : Cfg} (h : cfg.wf = true) :
    0 < cfg.cols ∧ cfg.cols ≤ 128 ∧ 0 < cfg.rows ∧ cfg.rows ≤ 4 := by
  obtain ⟨-, -, ⟨hcols, hrows⟩, hlength, hbases⟩ := Cfg.wf_iff.mp h
  obtain ⟨base, hbase⟩ : ∃ base, base ∈ cfg.rowBase := by
    apply List.exists_mem_of_length_pos
    omega
  have := hbases base hbase
  omega

/-- The cached coordinate of a cell is the cell. -/
theorem State.setCursor_cell {c r : Int} (hwf : s.cfg.wf = true) (hcell : checkCoord s.cfg c r = .ok) :
    (s.setCursor c r).col = c ∧ (s.setCursor c r).row = r := by
  obtain ⟨-, hcols, -, hrows⟩ := Cfg.geometry_bounds hwf
  obtain ⟨hc, hc', hr, hr'⟩ := checkCoord_eq_ok.mp hcell
  simp only [State.col, State.row, State.setCursor_ctl, BitVec.toNat_ofInt]
  omega

/-! ### Construction -/

theorem Cfg.dw_eq (cfg : Cfg) : cfg.dw = if cfg.dataLines.length = 4 then 4 else 8 := by
  unfold Cfg.dw Cfg.mode
  by_cases h : cfg.dataLines.length = 4 <;> simp [h]

/-- Rule R177: the data lines are configured in ascending order, the upper four of them in 4-bit mode. -/
theorem map_cfgOut_dataLineNames (cfg : Cfg) :
    ((dataLineNames cfg).map Event.cfgOut : List Event) =
      if cfg.dataLines.length = 4 then
        [.cfgOut (.d 4), .cfgOut (.d 5), .cfgOut (.d 6), .cfgOut (.d 7)]
      else
        [.cfgOut (.d 0), .cfgOut (.d 1), .cfgOut (.d 2), .cfgOut (.d 3), .cfgOut (.d 4), .cfgOut (.d 5),
         .cfgOut (.d 6), .cfgOut (.d 7)] := by
  rw [dataLineNames, Cfg.dw_eq]
  split <;> rfl

/-- Rule R134: an active-high backlight is off at the low level, an active-low one at the high level. -/
theorem backlightLevel_off (cfg : Cfg) : backlightLevel cfg false = if cfg.blActiveHigh then false else true := by
  unfold backlightLevel
  cases cfg.blActiveHigh <;> rfl

/-- A freshly constructed engine is a good idle one, whatever it stands before. -/
theorem State.constructed_idleInv {cfg : Cfg} (h : cfg.wf = true) (sink : Sink) (inputs : List Input) (draws : Nat) :
    (State.constructed cfg sink inputs draws).IdleInv := by
  obtain ⟨hcols, -, hrows, -⟩ := Cfg.geometry_bounds h
  exact
    { idle := rfl, seq := rfl, op := rfl, cfg := h, initialized := rfl, initState := .inl rfl, enable := rfl
      col := hcols, row := hrows, entryMode := nofun, backlight := rfl, rw := rfl
      data := Nat.two_pow_pos _, status := nofun }

/-! ### What a step can do -/

/-- Rule R158: the move that constructs an engine. -/
theorem step_of_construct {cfg : Cfg} {rest : List Input} (hwf : s.cfg.wf = true)
    (hmove : s.inputs = .construct cfg :: rest) :
    step s = if cfg.wf then .next ({ s with inputs := rest }.reconstruct cfg) else .fault .configurationError := by
  simp [step, portStep, hostMove, hwf, hmove]

theorem step_of_illFormed (hwf : s.cfg.wf = false) : step s = .refused .illFormedConfig := by
  simp [step, portStep, hwf]

/-- Rule R171: a host that waits, or has no move left, lets the engine make one micro-step. -/
theorem step_of_waiting {rest : List Input} (hwf : s.cfg.wf = true)
    (hmove : s.inputs = .wait :: rest ∨ s.inputs = [] ∧ rest = []) :
    step s = .next { s with inputs := rest }.advance := by
  rcases hmove with hmove | ⟨hmove, rfl⟩
  · simp [step, portStep, hostMove, hwf, hmove]
  · simp only [step, portStep, hwf, hmove, if_true]
    rw [← hmove]

/-- Something is presented with effect to an idle engine only, and only if it decodes. -/
theorem present_eq_next {run : Instr → State → Result} {x : Encoded} {t : State} (h : present run x s = .next t) :
    s.busy = false ∧ ∃ i, run i s = .next t := by
  unfold present at h
  split at h
  · cases h
  · split at h
    · exact ⟨by simp_all, _, h⟩
    · cases h

/-- The ways in which a step answers a next state: once the host's move is off the list, the engine makes a micro-step,
loses its display, is constructed again, or, idle, runs or accepts an instruction. -/
theorem step_cases {t : State} (h : step s = .next t) :
    ∃ rest,
      t = { s with inputs := rest }.advance
      ∨ t = { s with inputs := rest }.loseSink
      ∨ (∃ cfg, s.inputs = .construct cfg :: rest ∧ cfg.wf = true ∧ t = { s with inputs := rest }.reconstruct cfg)
      ∨ s.busy = false ∧ ∃ i,
          exec i { s with inputs := rest } = .next t ∨ startOp i { s with inputs := rest } = .next t := by
  unfold step portStep at h
  split at h
  case isFalse => cases h
  split at h
  case h_1 => exact ⟨s.inputs, .inl (by cases h; rfl)⟩
  case h_2 m rest hmove =>
    refine ⟨rest, ?_⟩
    cases m with
    | operate x =>
      obtain ⟨hidle, i, hrun⟩ := present_eq_next _ h
      exact .inr (.inr (.inr ⟨hidle, i, .inl hrun⟩))
    | start x =>
      obtain ⟨hidle, i, hrun⟩ := present_eq_next _ h
      exact .inr (.inr (.inr ⟨hidle, i, .inr hrun⟩))
    | wait => exact .inl (by cases h; rfl)
    | construct cfg =>
      simp only [hostMove] at h
      split at h
      · exact .inr (.inr (.inl ⟨cfg, hmove, ‹_›, by cases h; rfl⟩))
      · cases h
    | powerDisplay => exact .inr (.inl (by cases h; rfl))

/-! ### CFG -/

@[simp] theorem State.advance_cfg : s.advance.cfg = s.cfg := by
  unfold State.advance
  repeat' split
  all_goals simp

theorem exec_cfg {i : Instr} {t : State} (h : exec i s = .next t) : t.cfg = s.cfg := by
  rcases exec_cases h with ⟨-, -, rfl⟩ | ⟨-, rfl⟩ <;> simp

/-- The two ways in which acceptance answers a next state. -/
theorem startOp_cases {i : Instr} {t : State} (h : startOp i s = .next t) :
    (refusalOf i s.cfg = none ∧ checkOf i s = .ok ∧ t = entryOf i s)
    ∨ (refusalOf i s.cfg = none ∧ checkOf i s ≠ .ok ∧ t = s.raise (checkOf i s)) := by
  unfold startOp at h
  split at h
  · cases h
  · split at h
    · cases h; simp_all
    · cases h; simp_all

theorem startOp_cfg {i : Instr} {t : State} (h : startOp i s = .next t) : t.cfg = s.cfg := by
  rcases startOp_cases s h with ⟨-, -, rfl⟩ | ⟨-, -, rfl⟩ <;> simp

/-! ### The end of an operation in progress -/

theorem afterEvent_busy (i : Instr) : (afterEvent i s).busy = s.busy := by
  obtain ⟨st, h⟩ := afterEvent_eq s i
  rw [h, State.enter_busy]

theorem afterEvent_seq (i : Instr) : (afterEvent i s).seq = s.seq := by
  obtain ⟨st, h⟩ := afterEvent_eq s i
  rw [h, State.enter_seq]

theorem afterEvent_op (i : Instr) : (afterEvent i s).op = s.op := by
  obtain ⟨st, h⟩ := afterEvent_eq s i
  rw [h, State.enter_op]

/-- A micro-step of a busy engine is one of those that end its operation. -/
theorem State.remaining_of_busy (hb : s.busy = true) : s.remaining = s.advance.remaining + 1 := by
  cases ho : s.op with
  | none => simp [State.remaining, State.advance, hb, ho]
  | some i =>
    have hremaining : s.remaining = (eventsOf i s).length - s.seq + 1 := by simp [State.remaining, hb, ho]
    cases he : (eventsOf i s)[s.seq]? with
    | none =>
      have := List.getElem?_eq_none_iff.mp he
      rw [s.advance_of_no_event hb ho he, hremaining, State.remaining, if_neg (by simp)]
      omega
    | some ev =>
      obtain ⟨hlt, -⟩ := List.getElem?_eq_some_iff.mp he
      rw [s.advance_of_event hb ho he, hremaining]
      simp only [State.remaining, afterEvent_busy, afterEvent_op, afterEvent_seq, eventsOf_afterEvent, eventsOf_emit,
        State.emit_busy, State.emit_op, State.emit_seq, hb, ho, if_true]
      omega

/-- A micro-step does not change where the operation in progress ends. -/
theorem State.drain_advance : s.advance.drain = s.drain := by
  cases hb : s.busy with
  | false => rw [s.advance_of_idle hb]
  | true => rw [State.drain, State.drain, s.remaining_of_busy hb, State.advanceN]

/-- Where init's transitions fall does not matter to the state writes at its end. -/
theorem commitOf_emitAll_afterEvent (i : Instr) (evs : List Event) :
    commitOf i ((afterEvent i s).emitAll evs) = commitOf i (s.emitAll evs) := by
  cases i with
  | init =>
    obtain ⟨st, h⟩ := afterEvent_eq s .init
    rw [h, State.emitAll_enter]
    rfl
  | _ => rfl

/-- A running operation ends with the events it has left and its state writes. -/
theorem State.drain_of_running {i : Instr} {evs : List Event} (hb : s.busy = true) (ho : s.op = some i)
    (he : (eventsOf i s).drop s.seq = evs) : s.drain = commitOf i (s.emitAll evs) := by
  induction evs generalizing s with
  | nil =>
    have hnone : (eventsOf i s)[s.seq]? = none := List.getElem?_eq_none (List.drop_eq_nil_iff.mp he)
    rw [← s.drain_advance, s.advance_of_no_event hb ho hnone, State.drain_of_idle _ (commitOf_busy s i),
      State.emitAll_nil]
  | cons ev evs ih =>
    have hsome : (eventsOf i s)[s.seq]? = some ev := by
      rw [← List.head?_drop, he, List.head?_cons]
    have hrest : (eventsOf i s).drop (s.seq + 1) = evs := by
      rw [← List.tail_drop, he, List.tail_cons]
    rw [← s.drain_advance, s.advance_of_event hb ho hsome,
      ih (afterEvent i (s.emit ev)) (by rw [afterEvent_busy]; exact hb) (by rw [afterEvent_op]; exact ho)
        (by rw [eventsOf_afterEvent, eventsOf_emit, afterEvent_seq]; exact hrest),
      commitOf_emitAll_afterEvent, State.emitAll_cons]

/-- Acceptance does not change an instruction's event list. -/
theorem eventsOf_entryOf (i : Instr) (hseq : s.seq = 0) : eventsOf i (entryOf i s) = eventsOf i s := by
  have htrace : (entryOf i s).traceAtAcceptance = s.traceAtAcceptance := by
    simp [State.traceAtAcceptance, hseq]
  cases i with
  | functionSet l n f => simp only [eventsOf, functionSetEvents, htrace, entryOf_cfg]
  | force8Nibble => simp only [eventsOf, force8NibbleEvents, htrace, entryOf_cfg]
  | _ => rfl

/-- Accepted and run to its end, an instruction ends in its events and its state writes. -/
theorem drain_entryOf (i : Instr) (hseq : s.seq = 0) :
    (entryOf i s).drain = commitOf i ((entryOf i s).emitAll (eventsOf i s)) :=
  State.drain_of_running _ (entryOf_busy s i) (entryOf_op s i)
    (by rw [eventsOf_entryOf s i hseq, entryOf_seq, List.drop_zero])

/-- Rule R25: what acceptance starts ends where exec ends. -/
theorem exec_eq_drain_of_startOp {i : Instr} {u : State} (hseq : s.seq = 0) (h : startOp i s = .next u) :
    exec i s = .next u.drain ∧ u.drain.busy = false := by
  rcases startOp_cases s h with ⟨hform, hcheck, rfl⟩ | ⟨hform, hcheck, rfl⟩
  · rw [drain_entryOf s i hseq, exec_eq, hform]
    exact ⟨if_pos hcheck, commitOf_busy _ i⟩
  · rw [State.drain_of_idle _ (State.raise_busy s _), exec_eq, hform]
    exact ⟨if_neg hcheck, rfl⟩

/-! ### What the display cannot change -/

/-- The engine without its display, the host's coming moves and the draws, which no rule of the engine reads. -/
def State.engine (s : State) : State := { s with sink := Sink.unknown 0, inputs := [], draws := 0 }

theorem eventsOf_engine (i : Instr) : eventsOf i s.engine = eventsOf i s := by cases i <;> rfl

theorem commitOf_engine (i : Instr) : (commitOf i s.engine).engine = (commitOf i s).engine := by cases i <;> rfl

theorem afterEvent_engine (i : Instr) : (afterEvent i s.engine).engine = (afterEvent i s).engine := by
  cases i with
  | init =>
    simp only [afterEvent, initAfter, apply_ite State.engine]
    rfl
  | _ => rfl

theorem State.advance_engine : s.engine.advance.engine = s.advance.engine := by
  cases hb : s.busy with
  | false =>
    rw [s.advance_of_idle hb, s.engine.advance_of_idle hb]
    rfl
  | true =>
    cases ho : s.op with
    | none =>
      simp only [State.advance, hb, ho, State.engine]
      rfl
    | some i =>
      cases he : (eventsOf i s)[s.seq]? with
      | none =>
        rw [s.advance_of_no_event hb ho he, s.engine.advance_of_no_event hb ho (by rw [eventsOf_engine]; exact he),
          commitOf_engine]
      | some ev =>
        rw [s.advance_of_event hb ho he, s.engine.advance_of_event hb ho (by rw [eventsOf_engine]; exact he),
          ← afterEvent_engine, ← afterEvent_engine (s.emit ev)]
        rfl

theorem State.advanceN_engine (n : Nat) : (s.engine.advanceN n).engine = (s.advanceN n).engine := by
  induction n generalizing s with
  | zero => rfl
  | succ n ih => rw [State.advanceN, State.advanceN, ← ih s.advance, ← s.advance_engine, ih]

theorem State.remaining_engine : s.engine.remaining = s.remaining := by
  simp only [State.remaining, eventsOf_engine]
  rfl

theorem State.drain_engine : s.engine.drain.engine = s.drain.engine := by
  rw [State.drain, State.drain, s.remaining_engine, s.advanceN_engine]

theorem State.idleInv_engine : s.engine.IdleInv ↔ s.IdleInv := ⟨fun h => { h with }, fun h => { h with }⟩

/-- The invariant is a fact about the engine alone. -/
theorem State.Inv.of_engine_eq {s t : State} (h : s.Inv) (he : t.engine = s.engine) : t.Inv := by
  obtain ⟨hwf, hidle⟩ := h
  have hcfg : t.engine.cfg = s.engine.cfg := by rw [he]
  refine ⟨by rw [show t.cfg = s.cfg from hcfg]; exact hwf, ?_⟩
  rw [← State.idleInv_engine, ← State.drain_engine, he, State.drain_engine, State.idleInv_engine]
  exact hidle

end Sys2Proof.Machine
end

section
/-! SUPPORT. The pins between two operations: every instruction but backlight leaves the backlight line alone and hands the
other lines back at rest. -/

namespace Sys2Proof.Machine

/-- Rules R25 and R34 (e), (g): E low, no read asked, and no bit of D above the data lines. -/
structure Latches.AtRest (cfg : Cfg) (l : Latches) : Prop where
  enable : l.e = false
  rw : l.rw = if cfg.hasRw then some false else none
  data : l.d.toNat < 2 ^ cfg.dw

/-- The events leave the backlight line alone, and latches at rest at rest. -/
structure KeepsRest (cfg : Cfg) (evs : List Event) : Prop where
  bl : ∀ l : Latches, (evs.foldl (Latches.apply cfg) l).bl = l.bl
  atRest : ∀ l : Latches, l.AtRest cfg → (evs.foldl (Latches.apply cfg) l).AtRest cfg

variable {cfg : Cfg}

theorem KeepsRest.nil : KeepsRest cfg [] := ⟨fun _ => rfl, fun _ h => h⟩

theorem KeepsRest.append {xs ys : List Event} (hx : KeepsRest cfg xs) (hy : KeepsRest cfg ys) :
    KeepsRest cfg (xs ++ ys) where
  bl l := by rw [List.foldl_append, hy.bl, hx.bl]
  atRest l h := by
    rw [List.foldl_append]
    exact hy.atRest _ (hx.atRest l h)

theorem KeepsRest.wait (n : Nat) : KeepsRest cfg [.wait n] := ⟨fun _ => rfl, fun _ h => h⟩

/-- Rule R44: the engine's control lines never ask for a read. -/
theorem KeepsRest.setControl (rs : Bool) : KeepsRest cfg (setControl rs false) where
  bl _ := rfl
  atRest l h :=
    { enable := h.enable
      rw := show (if cfg.hasRw then some false else l.rw) = _ by rw [h.rw]; split <;> rfl
      data := h.data }

theorem foldl_send (w : Nat) (v : Byte) (l : Latches) :
    (send cfg w v).foldl (Latches.apply cfg) l = { l with d := if w = cfg.dw then v else l.d, e := false } := by
  simp only [send, pulse, List.foldl_cons, List.foldl_nil, Latches.apply]
  split <;> rfl

/-- A value of the width that is sent fits the data lines, or is not for them. -/
theorem KeepsRest.send {w : Nat} {v : Byte} (hv : v.toNat < 2 ^ w) : KeepsRest cfg (send cfg w v) where
  bl l := by rw [foldl_send]
  atRest l h := by
    rw [foldl_send]
    refine ⟨rfl, h.rw, ?_⟩
    dsimp only
    split
    · exact ‹w = cfg.dw› ▸ hv
    · exact h.data

theorem nibble_lt (n : Nibble) : (n.setWidth 8 : Byte).toNat < 2 ^ 4 := by
  rw [BitVec.toNat_setWidth_of_le (by decide)]
  exact n.isLt

theorem KeepsRest.xfer (rs : Bool) (b : Byte) : KeepsRest cfg (xfer cfg rs b) := by
  unfold Machine.xfer
  refine (KeepsRest.setControl rs).append ?_
  split
  · exact KeepsRest.send b.isLt
  · exact (KeepsRest.send (nibble_lt _)).append (KeepsRest.send (nibble_lt _))

theorem KeepsRest.instr (b : Byte) (t : Nat) : KeepsRest cfg (instr cfg b t) :=
  (KeepsRest.xfer false b).append (KeepsRest.wait t)

theorem KeepsRest.data (b : Byte) : KeepsRest cfg (data cfg b) :=
  (KeepsRest.xfer true b).append (KeepsRest.wait cfg.tData)

theorem KeepsRest.instrHi (b : Byte) (t : Nat) : KeepsRest cfg (instrHi cfg b t) :=
  ((KeepsRest.setControl false).append (KeepsRest.send (nibble_lt _))).append (KeepsRest.wait t)

theorem KeepsRest.dataAll (bytes : List Byte) : KeepsRest cfg (dataAll cfg bytes) := by
  induction bytes with
  | nil => exact KeepsRest.nil
  | cons b bytes ih => exact (KeepsRest.data b).append ih

theorem KeepsRest.initEvents : KeepsRest cfg (initEvents cfg) := by
  have hforced (t : Nat) : KeepsRest cfg (forcedEvents cfg t) := by
    unfold forcedEvents
    split
    · exact KeepsRest.instr _ t
    · exact KeepsRest.instrHi _ t
  have hstep2 : KeepsRest cfg (initStep2 cfg) := by
    unfold initStep2
    split
    · exact KeepsRest.nil
    · exact KeepsRest.instrHi _ _
  have hstep4 : KeepsRest cfg (initStep4 cfg) :=
    (((KeepsRest.instr _ _).append (KeepsRest.instr _ _)).append (KeepsRest.instr _ _)).append (KeepsRest.instr _ _)
  exact ((((hforced _).append (hforced _)).append (hforced _)).append (hstep2.append (KeepsRest.instr _ _))).append hstep4

/-- Rule R33: backlight is the one instruction that moves the backlight line. -/
theorem eventsOf_keepsRest (s : State) {i : Instr} (h : ∀ v, i ≠ .backlight v) : KeepsRest s.cfg (eventsOf i s) := by
  cases i with
  | init => exact KeepsRest.initEvents
  | backlight v => exact absurd rfl (h v)
  | write text col row => exact (KeepsRest.instr _ _).append (KeepsRest.dataAll _)
  | createChar slot pattern => exact ((KeepsRest.instr _ _).append (KeepsRest.dataAll _)).append (KeepsRest.instr _ _)
  | writeChar code | writeData code => exact KeepsRest.data code
  | force8Nibble | narrow4Nibble => exact KeepsRest.instrHi _ _
  | _ => exact KeepsRest.instr _ _

/-- Rule R134: backlight moves the backlight line, if there is one, and no other. -/
theorem foldl_backlightEvents (s : State) (v : Bool) (l : Latches) :
    (backlightEvents v s).foldl (Latches.apply s.cfg) l
      = { l with bl := if s.cfg.hasBl then some (backlightLevel s.cfg v) else l.bl } := by
  unfold backlightEvents
  split <;> simp [Latches.apply, *]

end Sys2Proof.Machine
end

section
/-! SUPPORT. The state writes: what those of each instruction leave of the engine's state (rule R33), and that they end in a
good idle engine (rule R34). -/

namespace Sys2Proof.Machine

variable (s : State)

/-! ### Where an instruction's writes come from -/

/-- Events touch no element but these five. -/
theorem State.emitAll_eq (evs : List Event) :
    s.emitAll evs =
      { s with
        seq := (s.emitAll evs).seq, latches := (s.emitAll evs).latches, trace := (s.emitAll evs).trace
        sink := (s.emitAll evs).sink, draws := (s.emitAll evs).draws } := by
  induction evs generalizing s with
  | nil => rfl
  | cons ev evs ih => rw [State.emitAll_cons, ih]; rfl

theorem commitOf_emitAll_ctl (i : Instr) (evs : List Event) :
    (commitOf i ((entryOf i s).emitAll evs)).ctl = (commitOf i s).ctl := by
  rw [State.emitAll_eq]
  cases i <;> rfl

theorem commitOf_emitAll_initState (i : Instr) (evs : List Event) :
    (commitOf i ((entryOf i s).emitAll evs)).initState = (commitOf i s).initState := by
  rw [State.emitAll_eq]
  cases i <;> rfl

theorem commitOf_emitAll_status (i : Instr) (evs : List Event) :
    (commitOf i ((entryOf i s).emitAll evs)).status = (commitOf i s).status := by
  rw [State.emitAll_eq]
  cases i <;> rfl

/-! ### The writers of each element -/

theorem commitOf_of_not_isOperation {i : Instr} (h : i.isOperation = false) : commitOf i s = s.idle := by
  cases i <;> cases h <;> rfl

theorem commitOf_status_of_isOperation {i : Instr} (h : i.isOperation = true) : (commitOf i s).status = .ok := by
  cases i <;> cases h <;> rfl

theorem checkOf_of_not_isOperation {i : Instr} (h : i.isOperation = false) : checkOf i s = .ok := by
  cases i <;> cases h <;> rfl

theorem commitOf_initialization_of_ne_init {i : Instr} (h : i ≠ .init) :
    (commitOf i s).initState = s.initState
    ∧ (commitOf i s).ctl.initialized = s.ctl.initialized
    ∧ (commitOf i s).ctl.entryIncrement = s.ctl.entryIncrement
    ∧ (commitOf i s).ctl.entryShift = s.ctl.entryShift := by
  cases i with
  | init => exact absurd rfl h
  | _ => exact ⟨rfl, rfl, rfl, rfl⟩

theorem commitOf_displayOn {i : Instr} (h : i ≠ .init) (h' : ∀ v, i ≠ .displayOnOff v) :
    (commitOf i s).ctl.displayOn = s.ctl.displayOn := by
  cases i with
  | init => exact absurd rfl h
  | displayOnOff v => exact absurd rfl (h' v)
  | _ => rfl

theorem commitOf_cursorFlags {i : Instr} (h : i ≠ .init) (h' : ∀ v b, i ≠ .cursor v b) :
    (commitOf i s).ctl.cursorVisible = s.ctl.cursorVisible ∧ (commitOf i s).ctl.cursorBlink = s.ctl.cursorBlink := by
  cases i with
  | init => exact absurd rfl h
  | cursor v b => exact absurd rfl (h' v b)
  | _ => exact ⟨rfl, rfl⟩

theorem commitOf_backlightOn {i : Instr} (h : ∀ v, i ≠ .backlight v) :
    (commitOf i s).ctl.backlightOn = s.ctl.backlightOn := by
  cases i with
  | backlight v => exact absurd rfl (h v)
  | _ => rfl

theorem commitOf_cell {i : Instr} (hi : i ≠ .init) (hc : i ≠ .clear) (hh : i ≠ .home) (hp : ∀ c r, i ≠ .position c r)
    (hw : ∀ x c r, i ≠ .write x c r) :
    (commitOf i s).ctl.currentCol = s.ctl.currentCol ∧ (commitOf i s).ctl.currentRow = s.ctl.currentRow := by
  cases i with
  | init => exact absurd rfl hi
  | clear => exact absurd rfl hc
  | home => exact absurd rfl hh
  | position c r => exact absurd rfl (hp c r)
  | write x c r => exact absurd rfl (hw x c r)
  | _ => exact ⟨rfl, rfl⟩

/-! ### The pins after an instruction -/

variable {s}

theorem backlight_of_other {i : Instr} (h : ∀ v, i ≠ .backlight v) :
    (commitOf i ((entryOf i s).emitAll (eventsOf i s))).latches.bl = s.latches.bl := by
  simp [(eventsOf_keepsRest s h).bl]

theorem latches_of_backlight (v : Bool) :
    (commitOf (.backlight v) ((entryOf (.backlight v) s).emitAll (eventsOf (.backlight v) s))).latches
      = { s.latches with bl := if s.cfg.hasBl then some (backlightLevel s.cfg v) else s.latches.bl } := by
  simp [eventsOf, foldl_backlightEvents]

theorem State.IdleInv.latches_atRest (h : s.IdleInv) : s.latches.AtRest s.cfg := ⟨h.enable, h.rw, h.data⟩

/-- Rule R34 (e) to (g) after an instruction. -/
theorem latches_of_idleInv (h : s.IdleInv) (i : Instr) :
    (commitOf i ((entryOf i s).emitAll (eventsOf i s))).latches.AtRest s.cfg
    ∧ (commitOf i ((entryOf i s).emitAll (eventsOf i s))).latches.bl
        = if s.cfg.hasBl then some (backlightLevel s.cfg (commitOf i s).ctl.backlightOn) else none := by
  by_cases hbl : ∃ v, i = .backlight v
  · obtain ⟨v, rfl⟩ := hbl
    rw [latches_of_backlight]
    refine ⟨⟨h.enable, h.rw, h.data⟩, ?_⟩
    dsimp only
    rw [h.backlight]
    split <;> rfl
  · have hbl' : ∀ v, i ≠ .backlight v := fun v e => hbl ⟨v, e⟩
    constructor
    · rw [commitOf_latches, State.emitAll_latches, entryOf_cfg, entryOf_latches]
      exact (eventsOf_keepsRest s hbl').atRest _ h.latches_atRest
    · rw [backlight_of_other hbl', commitOf_backlightOn s hbl', h.backlight]

/-! ### The cached cell after an instruction -/

/-- Rule R34 (d): an instruction whose check passed caches a cell of the grid. -/
theorem commitOf_inGrid (h : s.IdleInv) {i : Instr} (hcheck : checkOf i s = .ok) :
    (commitOf i s).col < s.cfg.cols ∧ (commitOf i s).row < s.cfg.rows := by
  obtain ⟨hcols, -, hrows, -⟩ := Cfg.geometry_bounds h.cfg
  have hcell {c r : Int} (hcheck : s.gate (checkCoord s.cfg c r) = .ok) :
      (s.setCursor c r).col < s.cfg.cols ∧ (s.setCursor c r).row < s.cfg.rows := by
    have hgrid : checkCoord s.cfg c r = .ok := by
      unfold State.gate at hcheck
      split at hcheck
      · exact hcheck
      · cases hcheck
    obtain ⟨hc, hr⟩ := State.setCursor_cell s h.cfg hgrid
    obtain ⟨-, hc', -, hr'⟩ := checkCoord_eq_ok.mp hgrid
    rw [hc, hr]
    exact ⟨hc', hr'⟩
  cases i with
  | init | clear | home => exact ⟨hcols, hrows⟩
  | position c r => exact hcell hcheck
  | write text col row => exact hcell hcheck
  | _ => exact ⟨h.col, h.row⟩

/-! ### The invariant after an instruction -/

/-- ConfigurationError is no check's (rules R152 to R155). -/
theorem checkOf_ne_configurationError (i : Instr) (s : State) : checkOf i s ≠ .configurationError := by
  have hgate {rest : Status} (h : rest ≠ .configurationError) : s.gate rest ≠ .configurationError := by
    unfold State.gate
    split
    · exact h
    · nofun
  have hcoord (c r : Int) : checkCoord s.cfg c r ≠ .configurationError := by
    unfold checkCoord
    split <;> nofun
  have hchar (slot : Int) (pattern : List Byte) : checkChar slot pattern ≠ .configurationError := by
    unfold checkChar
    repeat' split
    all_goals nofun
  cases i with
  | position c r => exact hgate (hcoord c r)
  | write text col row => exact hgate (hcoord _ _)
  | createChar slot pattern => exact hgate (hchar slot pattern)
  | init => nofun
  | clear | home | writeChar _ | displayOnOff _ | backlight _ | displayShift _ | cursor _ _ => exact hgate nofun
  | _ => nofun

theorem commitOf_status_ne_configurationError (h : s.IdleInv) (i : Instr) :
    (commitOf i s).status ≠ .configurationError := by
  cases hop : i.isOperation with
  | true => rw [commitOf_status_of_isOperation s hop]; nofun
  | false => rw [commitOf_of_not_isOperation s hop]; exact h.status

/-- Rule R34 (a) to (c) after an instruction: `initialized`, INIT_STATE and the entry mode go together. -/
theorem commitOf_initialization (h : s.IdleInv) (i : Instr) :
    (commitOf i s).ctl.initialized = decide ((commitOf i s).initState = .ready)
    ∧ ((commitOf i s).initState = .unpowered ∨ (commitOf i s).initState = .ready)
    ∧ ((commitOf i s).initState = .ready →
        (commitOf i s).ctl.entryIncrement = true ∧ (commitOf i s).ctl.entryShift = false) := by
  by_cases hi : i = .init
  · subst hi
    exact ⟨rfl, .inr rfl, fun _ => ⟨rfl, rfl⟩⟩
  · obtain ⟨hstate, hinitialized, hincrement, hshift⟩ := commitOf_initialization_of_ne_init s hi
    rw [hstate, hinitialized, hincrement, hshift]
    exact ⟨h.initialized, h.initState, h.entryMode⟩

/-- Rule R34: an instruction run to its end from a good idle engine leaves a good idle engine. -/
theorem exec_idleInv {i : Instr} {t : State} (h : s.IdleInv) (hrun : exec i s = .next t) : t.IdleInv := by
  rcases exec_cases hrun with ⟨hcheck, -, rfl⟩ | ⟨-, rfl⟩
  · obtain ⟨hinitialized, hinitState, hentryMode⟩ := commitOf_initialization h i
    obtain ⟨hrest, hbl⟩ := latches_of_idleInv h i
    obtain ⟨hcol, hrow⟩ := commitOf_inGrid h hcheck
    have hctl := commitOf_emitAll_ctl s i (eventsOf i s)
    have hstate := commitOf_emitAll_initState s i (eventsOf i s)
    have hcfg : (commitOf i ((entryOf i s).emitAll (eventsOf i s))).cfg = s.cfg := by simp
    exact
      { idle := commitOf_busy _ i
        seq := commitOf_seq _ i
        op := commitOf_op _ i
        cfg := by rw [hcfg]; exact h.cfg
        initialized := by rw [hctl, hstate]; exact hinitialized
        initState := by rw [hstate]; exact hinitState
        enable := hrest.enable
        col := by rw [State.col, hctl, hcfg]; exact hcol
        row := by rw [State.row, hctl, hcfg]; exact hrow
        entryMode := by rw [hctl, hstate]; exact hentryMode
        backlight := by rw [hctl, hcfg]; exact hbl
        rw := by rw [hcfg]; exact hrest.rw
        data := by rw [hcfg]; exact hrest.data
        status := by rw [commitOf_emitAll_status]; exact commitOf_status_ne_configurationError h i }
  · exact { h with idle := rfl, seq := rfl, op := rfl, status := checkOf_ne_configurationError i s }

/-! ### The invariant -/

theorem State.IdleInv.inv (h : s.IdleInv) : s.Inv := ⟨h.cfg, by rw [s.drain_of_idle h.idle]; exact h⟩

theorem State.Inv.idleInv_of_idle (h : s.Inv) (hidle : s.busy = false) : s.IdleInv := s.drain_of_idle hidle ▸ h.2

theorem State.Inv.advance (h : s.Inv) : s.advance.Inv := by
  obtain ⟨hwf, hend⟩ := h
  exact ⟨by rw [State.advance_cfg]; exact hwf, by rw [State.drain_advance]; exact hend⟩

/-- An instruction accepted by a good idle engine ends in one. -/
theorem startOp_inv {i : Instr} {t : State} (h : s.IdleInv) (hstart : startOp i s = .next t) : t.Inv := by
  obtain ⟨hexec, -⟩ := exec_eq_drain_of_startOp s h.seq hstart
  exact ⟨by rw [startOp_cfg s hstart]; exact h.cfg, exec_idleInv h hexec⟩

end Sys2Proof.Machine
end

section
/-! SUPPORT. The statements of the family 10_state settled: the invariant of the engine, reset and construction, the writers
of its state, the sequencer at its own grain. -/

namespace Sys2Proof.Machine

/-- Settles O55: a micro-step does not change where the operation in progress ends, the display is nothing the invariant
speaks of, and an instruction run or accepted by a good idle engine ends in one. -/
theorem stepKeepsInvariant : Obligations.StepKeepsInvariant := by
  unfold Obligations.StepKeepsInvariant
  intro s t hinv hstep
  obtain ⟨rest, hcases⟩ := step_cases s hstep
  have hinv' : State.Inv { s with inputs := rest } := hinv.of_engine_eq rfl
  rcases hcases with rfl | rfl | ⟨cfg, -, hcfg, rfl⟩ | ⟨hidle, i, hrun | hstart⟩
  · exact hinv'.advance
  · exact hinv'.of_engine_eq rfl
  · exact (State.constructed_idleInv hcfg _ _ _).inv
  · exact (exec_idleInv (hinv'.idleInv_of_idle hidle) hrun).inv
  · exact startOp_inv (hinv'.idleInv_of_idle hidle) hstart

/-- Settles O1: the construct move faults exactly when the CFG is not well-formed, which is one of R17's causes. -/
theorem constructionRejectsIllFormedConfig : Obligations.ConstructionRejectsIllFormedConfig := by
  unfold Obligations.ConstructionRejectsIllFormedConfig
  refine ⟨fun s cfg rest hwf hmove => ?_, step_of_illFormed⟩
  have hpins : ([cfg.rs, cfg.e] ++ cfg.rw.toList ++ cfg.dataLines ++ cfg.backlightPin.toList).Nodup ↔ cfg.pins.Nodup := by
    apply List.Perm.nodup_iff
    simp only [Cfg.pins, List.cons_append, List.nil_append, List.append_assoc, List.perm_cons]
    exact List.perm_middle.symm
  have hfault : step s = .fault .configurationError ↔ ¬ cfg.wf = true := by
    rw [step_of_construct s hwf hmove]
    split <;> simp [*]
  rw [hfault, hpins, Cfg.wf_iff]
  simp only [not_and_or, not_or, not_forall, not_lt, not_le, exists_prop, ne_eq, gt_iff_lt]

/-- Settles O2: the state that the construct move leaves, read off element by element. -/
theorem constructionLeavesResetValues : Obligations.ConstructionLeavesResetValues := by
  unfold Obligations.ConstructionLeavesResetValues
  intro s cfg rest hwf hmove hcfg
  refine ⟨_, (step_of_construct s hwf hmove).trans (if_pos hcfg), rfl, rfl, rfl, rfl, rfl, rfl, rfl, ?_, ?_, ?_⟩
  · simp only [State.reconstruct]
    split <;> rfl
  · rw [← backlightLevel_off]; rfl
  · rw [← backlightLevel_off, ← Cfg.dw_eq, ← map_cfgOut_dataLineNames]
    rfl

/-- Settles O39: an instruction writes what its events and its state writes write, one that fails STATUS alone. -/
theorem onlyTheListedWritersWrite : Obligations.OnlyTheListedWritersWrite := by
  unfold Obligations.OnlyTheListedWritersWrite
  intro i s t hrun
  rcases exec_cases hrun with ⟨hcheck, -, rfl⟩ | ⟨hcheck, rfl⟩
  · rw [commitOf_emitAll_ctl, commitOf_emitAll_initState, commitOf_emitAll_status]
    refine ⟨by simp, commitOf_initialization_of_ne_init s, commitOf_displayOn s, commitOf_cursorFlags s,
      fun h => ⟨commitOf_backlightOn s h, backlight_of_other h⟩, commitOf_cell s, fun h => ?_, ?_, fun h h' => ?_⟩
    · rw [commitOf_of_not_isOperation s h]
      exact ⟨rfl, rfl⟩
    · rintro v rfl
      rw [latches_of_backlight]
    · exact absurd (commitOf_status_of_isOperation s h) h'
  · exact ⟨⟨rfl, rfl⟩, fun _ => ⟨rfl, rfl, rfl, rfl⟩, fun _ _ => rfl, fun _ _ => ⟨rfl, rfl⟩, fun _ => ⟨rfl, rfl⟩,
      fun _ _ _ _ _ => ⟨rfl, rfl⟩, fun h => absurd (checkOf_of_not_isOperation s h) hcheck, fun _ _ => rfl,
      fun _ _ => rfl⟩

/-- Settles O43: what acceptance starts drains to the events and the state writes that exec answers. -/
theorem sequencerAgreesWithExec : Obligations.SequencerAgreesWithExec := by
  unfold Obligations.SequencerAgreesWithExec
  intro i s _ hseq _
  refine ⟨fun u => exec_eq_drain_of_startOp s hseq, fun f h => ?_, fun r h => ?_⟩
  · unfold startOp at h
    repeat' split at h
    all_goals cases h
  · unfold startOp at h
    rw [exec_eq]
    split at h
    · cases h; simp only [*]
    · split at h <;> cases h

/-- Settles O44: a waiting host lets the engine make one micro-step, which emits the next event or performs the state
writes. -/
theorem microStepEmitsNextEvent : Obligations.MicroStepEmitsNextEvent := by
  unfold Obligations.MicroStepEmitsNextEvent
  intro s i rest hwf hb ho hmove
  have hevents : eventsOf i { s with inputs := rest } = eventsOf i s := by cases i <;> rfl
  rw [step_of_waiting s hwf hmove]
  constructor
  · intro ev he
    obtain ⟨st, hafter⟩ := afterEvent_eq (State.emit { s with inputs := rest } ev) i
    rw [State.advance_of_event { s with inputs := rest } hb ho (by rw [hevents]; exact he), hafter]
    exact ⟨_, rfl, rfl, rfl, hb, ho, rfl, rfl, rfl, rfl⟩
  · intro hend
    rw [State.advance_of_no_event { s with inputs := rest } hb ho (by rw [hevents]; exact List.getElem?_eq_none hend)]

/-- Settles O57: nothing that a step does but construction writes CFG. -/
theorem stepNeverChangesConfig : Obligations.StepNeverChangesConfig := by
  unfold Obligations.StepNeverChangesConfig
  intro s t hstep hmove
  obtain ⟨rest, hcases⟩ := step_cases s hstep
  rcases hcases with rfl | rfl | ⟨cfg, hconstruct, -⟩ | ⟨-, i, hrun | hstart⟩
  · exact State.advance_cfg _
  · rfl
  · exact absurd hconstruct (hmove cfg rest)
  · exact (exec_cfg _ hrun :)
  · exact (startOp_cfg _ hstart :)

/-- Settles O3: reset is a construction, with a well-formed CFG. -/
theorem resetMeetsInvariant : Obligations.ResetMeetsInvariant :=
  (State.constructed_idleInv (by decide) _ _ _).inv

/-- Settles O12, event by event. -/
theorem eventsSetLatches : Obligations.EventsSetLatches := by
  unfold Obligations.EventsSetLatches
  intro cfg l
  exact ⟨fun _ _ => rfl, fun _ => if_pos rfl, fun _ => rfl,
    fun _ h => by simp [Latches.apply, h], fun _ => rfl, fun _ => rfl⟩

end Sys2Proof.Machine
end

section
/-! SUPPORT. What a micro-step, a move of the host and an instruction do to the sink and the trace, said once for every
instruction, and that the sink's memories stay canonical. -/

namespace Sys2Proof.Machine

variable (s : State)

/-! ### Inversion -/

/-- A step that answers a next state is a micro-step with no move left, or the host's next move. -/
theorem step_eq_next {t : State} (h : step s = .next t) :
    (s.inputs = [] ∧ t = s.advance)
    ∨ ∃ m rest, s.inputs = m :: rest ∧ hostMove m { s with inputs := rest } = .next t := by
  unfold step portStep at h
  split at h
  case isFalse => cases h
  split at h
  case h_1 hnone => exact .inl ⟨hnone, by cases h; rfl⟩
  case h_2 m rest hmove => exact .inr ⟨m, rest, hmove, h⟩

/-- What is presented with effect decodes to the instruction that runs. -/
theorem present_eq_next_decoded {run : Instr → State → Result} {x : Encoded} {t : State}
    (h : present run x s = .next t) : ∃ i, decode s.cfg.cpWidth x = .ok i ∧ run i s = .next t := by
  unfold present at h
  split at h
  · cases h
  · split at h
    · exact ⟨_, ‹_›, h⟩
    · cases h

/-- The ways of a micro-step: none, the end of an operation, or the next event. -/
theorem State.advance_cases :
    s.advance = s ∨ s.advance = s.idle ∨ (∃ i, s.advance = commitOf i s)
    ∨ ∃ i, ∃ ev ∈ eventsOf i s, s.advance = afterEvent i (s.emit ev) := by
  cases hb : s.busy with
  | false => exact .inl (s.advance_of_idle hb)
  | true =>
    cases ho : s.op with
    | none => exact .inr (.inl (by simp [State.advance, hb, ho]))
    | some i =>
      cases he : (eventsOf i s)[s.seq]? with
      | none => exact .inr (.inr (.inl ⟨i, s.advance_of_no_event hb ho he⟩))
      | some ev => exact .inr (.inr (.inr ⟨i, ev, List.mem_of_getElem? he, s.advance_of_event hb ho he⟩))

@[simp] theorem afterEvent_sink (i : Instr) : (afterEvent i s).sink = s.sink := by
  obtain ⟨st, h⟩ := afterEvent_eq s i
  rw [h, State.enter_sink]

@[simp] theorem afterEvent_trace (i : Instr) : (afterEvent i s).trace = s.trace := by
  obtain ⟨st, h⟩ := afterEvent_eq s i
  rw [h, State.enter_trace]

/-! ### The sink -/

/-- A micro-step leaves the sink, or does to it what one event does. -/
theorem State.advance_sink : s.advance.sink = s.sink ∨ ∃ ev, s.advance.sink = (s.emit ev).sink := by
  rcases s.advance_cases with h | h | ⟨i, h⟩ | ⟨i, ev, -, h⟩
  · exact .inl (by rw [h])
  · exact .inl (by rw [h, State.idle_sink])
  · exact .inl (by rw [h, commitOf_sink])
  · exact .inr ⟨ev, by rw [h, afterEvent_sink]⟩

/-- An instruction leaves the sink that its events leave, or, failed, the sink as it was. -/
theorem exec_sink {i : Instr} {t : State} (h : exec i s = .next t) :
    (checkOf i s ≠ .ok ∧ t.status = checkOf i s ∧ t.sink = s.sink)
    ∨ (checkOf i s = .ok ∧ t.sink = ((entryOf i s).emitAll (eventsOf i s)).sink) := by
  rcases exec_cases h with ⟨hcheck, -, rfl⟩ | ⟨hcheck, rfl⟩
  · exact .inr ⟨hcheck, commitOf_sink _ i⟩
  · exact .inl ⟨hcheck, rfl, rfl⟩

/-- Reset leaves the sink, or makes it a draw. -/
theorem State.reconstruct_sink (cfg : Cfg) :
    (s.reconstruct cfg).sink = s.sink ∨ ∃ k, (s.reconstruct cfg).sink = Sink.unknown k := by
  unfold State.reconstruct
  cases s.busy
  · exact .inl rfl
  · exact .inr ⟨s.draws, rfl⟩

/-! ### The memories of the sink -/

theorem State.memoryWf_iff : s.memoryWf = true ↔ s.sink.memoryWf := by
  simp only [State.memoryWf, Bool.and_eq_true, Sink.memoryWf]

variable {s}

theorem State.advance_memoryWf (h : s.sink.memoryWf) : s.advance.sink.memoryWf := by
  rcases s.advance_sink with e | ⟨ev, e⟩
  · rw [e]; exact h
  · rw [e]; exact State.emit_memoryWf ev h

/-- Acceptance leaves the memories, but that an init draws a CGRAM (rule R181). -/
theorem entryOf_memoryWf (i : Instr) (h : s.sink.memoryWf) : (entryOf i s).sink.memoryWf := by
  by_cases hi : i = .init
  · subst hi
    exact Sink.expectForced_memoryWf (sk := { s.sink with cgram := Memory.unknownCgram s.draws })
      ⟨h.1, Memory.wf_unknownCgram s.draws⟩
  · rw [entryOf_sink_of_ne_init s hi]
    exact h

theorem exec_memoryWf {i : Instr} {t : State} (h : s.sink.memoryWf) (hrun : exec i s = .next t) :
    t.sink.memoryWf := by
  rcases exec_sink s hrun with ⟨-, -, e⟩ | ⟨-, e⟩
  · rw [e]; exact h
  · rw [e]; exact State.emitAll_memoryWf _ (entryOf_memoryWf i h)

theorem startOp_memoryWf {i : Instr} {t : State} (h : s.sink.memoryWf) (hstart : startOp i s = .next t) :
    t.sink.memoryWf := by
  rcases startOp_cases s hstart with ⟨-, -, rfl⟩ | ⟨-, -, rfl⟩
  · exact entryOf_memoryWf i h
  · exact h

theorem State.reconstruct_memoryWf (cfg : Cfg) (h : s.sink.memoryWf) : (s.reconstruct cfg).sink.memoryWf := by
  rcases s.reconstruct_sink cfg with e | ⟨k, e⟩
  · rw [e]; exact h
  · rw [e]; exact Sink.unknown_memoryWf k

end Sys2Proof.Machine
end

section
/-! SUPPORT. The trace: every instruction's events are the engine's transfers and the backlight's, none of which asks the
display for a read. -/

namespace Sys2Proof.Machine

/-- Rules R83 to R88 and R134: a segment of the engine's own events, its transfers with their settle waits and the events
of the backlight line. -/
inductive Segment (cfg : Cfg) : List Event → Prop where
  | nil : Segment cfg []
  | instr (b : Byte) (t : Nat) : Segment cfg (instr cfg b t)
  | data (b : Byte) : Segment cfg (data cfg b)
  | instrHi (b : Byte) (t : Nat) : Segment cfg (instrHi cfg b t)
  | bl (level : Bool) : Segment cfg [.bl level]
  | append {xs ys : List Event} : Segment cfg xs → Segment cfg ys → Segment cfg (xs ++ ys)

variable {cfg : Cfg}

theorem Segment.dataAll (bytes : List Byte) : Segment cfg (dataAll cfg bytes) := by
  induction bytes with
  | nil => exact .nil
  | cons b bytes ih => exact (Segment.data b).append ih

theorem Segment.forcedEvents (t : Nat) : Segment cfg (forcedEvents cfg t) := by
  unfold Machine.forcedEvents
  split
  · exact .instr _ t
  · exact .instrHi _ t

theorem Segment.initStep2 : Segment cfg (initStep2 cfg) := by
  unfold Machine.initStep2
  split
  · exact .nil
  · exact .instrHi _ _

theorem Segment.initEvents : Segment cfg (initEvents cfg) :=
  have step1 : Segment cfg (initStep1 cfg) := ((forcedEvents _).append (forcedEvents _)).append (forcedEvents _)
  have step4 : Segment cfg (initStep4 cfg) := (((instr _ _).append (instr _ _)).append (instr _ _)).append (instr _ _)
  (step1.append (initStep2.append (instr _ _))).append step4

theorem Segment.backlightEvents (v : Bool) (s : State) : Segment s.cfg (backlightEvents v s) := by
  unfold Machine.backlightEvents
  split
  · exact .bl _
  · exact .nil

/-- Rule R107: every instruction's events are such a segment. -/
theorem eventsOf_segment (i : Instr) (s : State) : Segment s.cfg (eventsOf i s) := by
  cases i with
  | init => exact .initEvents
  | write text col row => exact (Segment.instr _ _).append (.dataAll _)
  | createChar slot pattern => exact ((Segment.instr _ _).append (.dataAll _)).append (.instr _ _)
  | writeChar code | writeData code => exact .data code
  | backlight v => exact .backlightEvents v s
  | force8Nibble | narrow4Nibble => exact .instrHi _ _
  | _ => exact .instr _ _

/-! ### No read -/

@[simp] theorem neverReads_append (xs ys : List Event) : neverReads (xs ++ ys) = (neverReads xs && neverReads ys) :=
  List.all_append

theorem neverReads_xfer (rs : Bool) (b : Byte) : neverReads (xfer cfg rs b) = true := by
  unfold xfer
  split <;> rfl

/-- Rule R44: the engine writes only. -/
theorem Segment.neverReads {evs : List Event} (h : Segment cfg evs) : neverReads evs = true := by
  induction h with
  | nil | bl | instrHi => rfl
  | instr b t => rw [Machine.instr, neverReads_append, neverReads_xfer]; rfl
  | data b => rw [Machine.data, neverReads_append, neverReads_xfer]; rfl
  | append _ _ hx hy => rw [neverReads_append, hx, hy]; rfl

theorem neverReads_singleton_of_mem {evs : List Event} {ev : Event} (h : neverReads evs = true) (hmem : ev ∈ evs) :
    neverReads [ev] = true := by
  have := List.all_eq_true.mp h ev hmem
  simpa only [Machine.neverReads, List.all_cons, List.all_nil, Bool.and_true] using this

theorem neverReads_constructionEvents (cfg : Cfg) : neverReads (constructionEvents cfg) = true := by
  have hlines : neverReads ((dataLineNames cfg).map .cfgOut) = true := by
    simp [neverReads]
  unfold constructionEvents
  simp only [neverReads_append, hlines]
  cases cfg.hasRw <;> cases cfg.hasBl <;> rfl

variable {s : State}

theorem State.advance_neverReads (h : neverReads s.trace = true) : neverReads s.advance.trace = true := by
  rcases s.advance_cases with e | e | ⟨i, e⟩ | ⟨i, ev, hmem, e⟩
  · rw [e]; exact h
  · rw [e]; exact h
  · rw [e, commitOf_trace]; exact h
  · rw [e, afterEvent_trace, State.emit_trace, neverReads_append, h,
      neverReads_singleton_of_mem (eventsOf_segment i s).neverReads hmem]
    rfl

theorem exec_neverReads {i : Instr} {t : State} (h : neverReads s.trace = true) (hrun : exec i s = .next t) :
    neverReads t.trace = true := by
  rcases exec_cases hrun with ⟨-, -, rfl⟩ | ⟨-, rfl⟩
  · rw [(s.ran_commitOf i _).trace, neverReads_append, h, (eventsOf_segment i s).neverReads]
    rfl
  · exact h

theorem startOp_trace {i : Instr} {t : State} (h : startOp i s = .next t) : t.trace = s.trace := by
  rcases startOp_cases s h with ⟨-, -, rfl⟩ | ⟨-, -, rfl⟩
  · exact entryOf_trace s i
  · rfl

end Sys2Proof.Machine
end

section
/-! SUPPORT. The addresses of the cells (rules R46, R47, R104), and the instruction bytes at the default base bytes. -/

namespace Sys2Proof.Machine

variable {cfg : Cfg}

/-- Rule R17: a row of a well-formed geometry has a base, from which all its columns fit 7 bits. -/
theorem Cfg.rowBase_of_wf (h : cfg.wf = true) {r : Int} (hr : 0 ≤ r) (hr' : r < cfg.rows) :
    ∃ base, cfg.rowBase[r.toNat]? = some base ∧ (base : Int) + cfg.cols - 1 ≤ 0x7F := by
  obtain ⟨-, -, -, hlength, hbases⟩ := Cfg.wf_iff.mp h
  have hlt : r.toNat < cfg.rowBase.length := by omega
  exact ⟨cfg.rowBase[r.toNat], List.getElem?_eq_getElem hlt, hbases _ (List.getElem_mem hlt)⟩

/-- An address that fits 7 bits is the row's base plus the column. -/
theorem Cfg.toNat_ddramAddr {base : Nat} {c r : Int} (hbase : cfg.rowBase[r.toNat]? = some base) (hc : 0 ≤ c)
    (hfits : (base : Int) + c ≤ 0x7F) : ((cfg.ddramAddr c r).toNat : Int) = base + c := by
  rw [Cfg.ddramAddr, List.getD_eq_getElem?_getD, hbase, BitVec.toNat_ofInt]
  simp only [Option.getD_some]
  omega

/-- Rule R104 at the default base byte. -/
theorem toNat_ddramByte (h : cfg.opcDdram = 0x80) (a : BitVec 7) : (ddramByte cfg a).toNat = 0x80 + a.toNat := by
  rw [ddramByte, h]
  revert a
  decide

/-- Rule R96: the defaults, byte by byte. -/
theorem Cfg.standardBytes_iff :
    cfg.standardBytes = true ↔
      cfg.opcClear = 0x01 ∧ cfg.opcHome = 0x02 ∧ cfg.opcEntry = 0x04 ∧ cfg.opcDisplay = 0x08 ∧ cfg.opcShift = 0x10
      ∧ cfg.opcFunction = 0x20 ∧ cfg.opcCgram = 0x40 ∧ cfg.opcDdram = 0x80 := by
  simp only [Cfg.standardBytes, Bool.and_eq_true, beq_iff_eq, and_assoc]

end Sys2Proof.Machine
end

section
/-! SUPPORT. The engine without its display: what an instruction checks, emits and writes is the same before any sink. -/

namespace Sys2Proof.Machine

variable (s : State)

theorem checkOf_engine (i : Instr) : checkOf i s.engine = checkOf i s := by cases i <;> rfl

theorem entryOf_engine (i : Instr) : (entryOf i s.engine).engine = (entryOf i s).engine := by cases i <;> rfl

theorem State.emitAll_engine (evs : List Event) : (s.engine.emitAll evs).engine = (s.emitAll evs).engine := by
  induction evs generalizing s with
  | nil => rfl
  | cons ev evs ih => rw [State.emitAll_cons, State.emitAll_cons, ← ih (s.emit ev), ← ih (s.engine.emit ev)]; rfl

variable {s}

/-- Rule R44: engines that are alike run an instruction alike. -/
theorem exec_engine_congr {i : Instr} {s' t : State} (he : s'.engine = s.engine) (h : exec i s = .next t) :
    ∃ t', exec i s' = .next t' ∧ t'.engine = t.engine := by
  have hcfg : s'.cfg = s.cfg := show s'.engine.cfg = s.engine.cfg by rw [he]
  have hcheck : checkOf i s' = checkOf i s := by rw [← checkOf_engine s', he, checkOf_engine]
  rcases exec_cases h with ⟨hok, hform, rfl⟩ | ⟨herror, rfl⟩
  · refine ⟨commitOf i ((entryOf i s').emitAll (eventsOf i s')), ?_, ?_⟩
    · rw [exec_eq, hcfg, hform, hcheck]
      exact if_pos hok
    · rw [← commitOf_engine, ← State.emitAll_engine, ← entryOf_engine, ← eventsOf_engine, he, eventsOf_engine,
        entryOf_engine, State.emitAll_engine, commitOf_engine]
  · obtain ⟨t', ht'⟩ := exec_next_of_form s' (i := i) (by
      cases hop : i.isOperation with
      | true => exact refusalOf_of_isOperation hop _
      | false => exact absurd (checkOf_of_not_isOperation s hop) herror)
    refine ⟨t', ht', ?_⟩
    rcases exec_cases ht' with ⟨hok, -, -⟩ | ⟨-, rfl⟩
    · exact absurd (hcheck ▸ hok) herror
    · rw [hcheck]
      exact congrArg (State.raise · (checkOf i s)) he

/-- Alike engines with the same coming moves differ in the sink and its draws only. -/
theorem State.eq_of_engine_eq {t t' : State} (he : t'.engine = t.engine) (hinputs : t'.inputs = t.inputs) :
    t' = { t with sink := t'.sink, draws := t'.draws } := by
  have h : { t'.engine with sink := t'.sink, inputs := t'.inputs, draws := t'.draws }
      = { t.engine with sink := t'.sink, inputs := t.inputs, draws := t'.draws } := by rw [he, hinputs]
  exact h

theorem exec_inputs {i : Instr} {t : State} (h : exec i s = .next t) : t.inputs = s.inputs := by
  rcases exec_cases h with ⟨-, -, rfl⟩ | ⟨-, rfl⟩ <;> simp

end Sys2Proof.Machine
end

section
/-! SUPPORT. What each instruction byte does to the sink at the default base bytes (rules R57 to R60), one lemma per byte. -/

namespace Sys2Proof.Machine

variable {cfg : Cfg} (k : Nat) (sk : Sink)

theorem Sink.execByte_clearByte (h : cfg.standardBytes = true) : sk.execByte cfg k (clearByte cfg) = sk.clear := by
  obtain ⟨hbyte, -⟩ := Cfg.standardBytes_iff.mp h
  rw [clearByte, hbyte]
  rfl

theorem Sink.execByte_homeByte (h : cfg.standardBytes = true) : sk.execByte cfg k (homeByte cfg) = sk.home := by
  obtain ⟨-, hbyte, -⟩ := Cfg.standardBytes_iff.mp h
  rw [homeByte, hbyte]
  rfl

theorem Sink.execByte_entryByte (h : cfg.standardBytes = true) (i sh : Bool) :
    sk.execByte cfg k (entryByte cfg i sh) = { sk with id := i, s := sh } := by
  obtain ⟨-, -, hbyte, -⟩ := Cfg.standardBytes_iff.mp h
  rw [entryByte, hbyte]
  cases i <;> cases sh <;> rfl

theorem Sink.execByte_displayByte (h : cfg.standardBytes = true) (d c b : Bool) :
    sk.execByte cfg k (displayByte cfg d c b) = { sk with d := d, c := c, b := b } := by
  obtain ⟨-, -, -, hbyte, -⟩ := Cfg.standardBytes_iff.mp h
  rw [displayByte, hbyte]
  cases d <;> cases c <;> cases b <;> rfl

theorem Sink.execByte_shiftByte (h : cfg.standardBytes = true) (sc rl : Bool) :
    sk.execByte cfg k (shiftByte cfg sc rl) = sk.cursorOrShift cfg k sc rl := by
  obtain ⟨-, -, -, -, hbyte, -⟩ := Cfg.standardBytes_iff.mp h
  rw [shiftByte, hbyte]
  cases sc <;> cases rl <;> rfl

theorem Sink.execByte_functionByte (h : cfg.standardBytes = true) (l n f : Bool) :
    sk.execByte cfg k (functionByte cfg l n f) = { sk with wide := l, n := n, f := f, half := none } := by
  obtain ⟨-, -, -, -, -, hbyte, -⟩ := Cfg.standardBytes_iff.mp h
  rw [functionByte, hbyte]
  cases l <;> cases n <;> cases f <;> rfl

/-- Rule R103: the set-CGRAM-address byte has bit 6 for its highest, and its address below it. -/
theorem cgramByte_fields (h : cfg.standardBytes = true) (a : BitVec 6) :
    (cgramByte cfg a).getLsbD 7 = false ∧ (cgramByte cfg a).getLsbD 6 = true ∧ (cgramByte cfg a).extractLsb' 0 6 = a := by
  obtain ⟨-, -, -, -, -, -, hbyte, -⟩ := Cfg.standardBytes_iff.mp h
  rw [cgramByte, hbyte]
  revert a
  decide

theorem Sink.execByte_cgramByte (h : cfg.standardBytes = true) (a : BitVec 6) :
    sk.execByte cfg k (cgramByte cfg a) = { sk with target := .cgram, ac := a.setWidth 7 } := by
  obtain ⟨hbit7, hbit6, haddress⟩ := cgramByte_fields h a
  simp only [Sink.execByte, hbit7, hbit6, haddress, Bool.false_eq_true, if_false, if_true]

/-- Rule R104: the set-DDRAM-address byte has bit 7 for its highest, and its address below it. -/
theorem ddramByte_fields (h : cfg.standardBytes = true) (a : BitVec 7) :
    (ddramByte cfg a).getLsbD 7 = true ∧ (ddramByte cfg a).extractLsb' 0 7 = a := by
  obtain ⟨-, -, -, -, -, -, -, hbyte⟩ := Cfg.standardBytes_iff.mp h
  rw [ddramByte, hbyte]
  revert a
  decide

theorem Sink.execByte_ddramByte (h : cfg.standardBytes = true) (a : BitVec 7) :
    sk.execByte cfg k (ddramByte cfg a) = { sk with target := .ddram, ac := a } := by
  obtain ⟨hbit7, haddress⟩ := ddramByte_fields h a
  simp only [Sink.execByte, hbit7, haddress, if_true]

/-! ### Data bytes -/

variable {sk}

theorem Sink.storeByte_of_ddram (h : sk.target = .ddram) (b : Byte) :
    sk.storeByte cfg k b =
      { sk with
        ddram := sk.ddram.write sk.ac.toNat b, ac := sk.stepAc cfg k sk.id
        shift := if sk.s then Config.freeShift k else sk.shift } := by
  simp only [Sink.storeByte, h]

theorem Sink.storeByte_of_cgram (h : sk.target = .cgram) (b : Byte) :
    sk.storeByte cfg k b =
      { sk with
        cgram := sk.cgram.write (sk.ac.toNat % 64) (b &&& 0x1F), ac := sk.stepAc cfg k sk.id
        shift := if sk.s then Config.freeShift k else sk.shift } := by
  simp only [Sink.storeByte, h]

theorem Sink.shiftStep_eq (right : Bool) : Sink.shiftStep right = 1 ∨ Sink.shiftStep right = -1 := by
  unfold Sink.shiftStep
  split
  · exact .inl rfl
  · exact .inr rfl

/-! ### Instructions at a sink in step -/

variable (s : State)

/-- BUSY, SEQ and the port are nothing that the sink sees. -/
theorem State.emitAll_sink_of_port (busy : Bool) (seq : Nat) (op : Option Instr) (evs : List Event) :
    (State.emitAll { s with busy := busy, seq := seq, op := op } evs).sink = (s.emitAll evs).sink := by
  induction evs generalizing s seq with
  | nil => rfl
  | cons ev evs ih => exact ih (s.emit ev) (seq + 1)

theorem entryOf_of_ne_init {i : Instr} (h : i ≠ .init) : entryOf i s = s.accept i := by
  cases i with
  | init => exact absurd rfl h
  | _ => rfl

variable {s}

/-- Any instruction but init leaves the sink that its events leave, or, failed, the sink as it was. -/
theorem exec_sink_of_ne_init {i : Instr} {t : State} (hi : i ≠ .init) (h : exec i s = .next t) :
    (checkOf i s ≠ .ok ∧ t.status = checkOf i s ∧ t.sink = s.sink)
    ∨ (checkOf i s = .ok ∧ t.sink = (s.emitAll (eventsOf i s)).sink) := by
  have hport : ((entryOf i s).emitAll (eventsOf i s)).sink = (s.emitAll (eventsOf i s)).sink := by
    rw [entryOf_of_ne_init s hi]
    exact s.emitAll_sink_of_port true 0 (some i) (eventsOf i s)
  exact hport ▸ exec_sink s h

/-- An instruction that is one transfer of an instruction byte does to a sink in step what that byte does. -/
theorem exec_sink_of_instr {i : Instr} {t : State} {b : Byte} {w : Nat} (hi : i ≠ .init) (hstep : s.sink.inStep s.cfg)
    (hevents : eventsOf i s = instr s.cfg b w) (hcheck : checkOf i s = .ok) (h : exec i s = .next t) :
    ∃ k, t.sink = s.sink.execByte s.cfg k b := by
  rcases exec_sink_of_ne_init hi h with ⟨herror, -⟩ | ⟨-, e⟩
  · exact absurd hcheck herror
  · exact ⟨_, by rw [e, hevents]; exact State.instr_sink b w hstep⟩

/-- The backlight is no part of the sink. -/
theorem State.backlightEvents_sink (v : Bool) : (s.emitAll (backlightEvents v s)).sink = s.sink := by
  unfold backlightEvents
  split
  · simp [isFall]
  · rfl

end Sys2Proof.Machine
end

section
/-! SUPPORT. The pulses of the engine's instruction transfers, one at a time, at a sink in any state: what the four top data
lines make of it (rules R56, R57), and how three forced function-sets end (rule R114). -/

namespace Sys2Proof.Machine

variable {cfg : Cfg}

/-! ### One pulse of an instruction transfer -/

/-- The latches at the falling edge of a pulse that is part of an instruction and has `v` on lines D7 to D4. -/
structure Latches.Instructs (cfg : Cfg) (v : Nibble) (l : Latches) : Prop where
  rs : l.rs = false
  noRead : asksRead cfg l = false
  top : topLines cfg l.d = v

/-- The latches that one instruction pulse of the engine falls at, D set to `d`. -/
def instructionLatches (cfg : Cfg) (l : Latches) (d : Byte) : Latches :=
  { l with rs := false, rw := if cfg.hasRw then some false else l.rw, e := true, d := d }

theorem asksRead_instructionLatches (l : Latches) (d : Byte) : asksRead cfg (instructionLatches cfg l d) = false := by
  unfold asksRead instructionLatches
  cases cfg.hasRw <;> rfl

/-- CTRL(0, 0), one data value of the engine's width, one enable pulse: the sink takes one pulse. -/
theorem State.emitAll_one_pulse_sink (s : State) {w : Nat} (hw : w = s.cfg.dw) (d : Byte) (t : Nat) :
    (s.emitAll (setControl false false ++ send s.cfg w d ++ [.wait t])).sink
      = s.sink.pulse s.cfg (instructionLatches s.cfg s.latches d) s.draws := by
  simp [setControl, send, pulse, isFall, Latches.apply, instructionLatches, hw]

/-- In 4-bit mode the high nibble alone is one pulse (rule R87). -/
theorem State.instrHi_sink (s : State) (hmode : s.cfg.mode = .fourBit) (b : Byte) (t : Nat) :
    ∃ l, l.Instructs s.cfg (hiNibble b) ∧ (s.emitAll (instrHi s.cfg b t)).sink = s.sink.pulse s.cfg l s.draws := by
  refine ⟨instructionLatches s.cfg s.latches ((hiNibble b).setWidth 8), ⟨rfl, asksRead_instructionLatches _ _, ?_⟩,
    s.emitAll_one_pulse_sink (by rw [Cfg.dw, hmode]) _ t⟩
  simp [topLines, hmode, instructionLatches]

/-- In 8-bit mode a whole instruction byte is one pulse (rule R86). -/
theorem State.instr_sink_of_eightBit (s : State) (hmode : s.cfg.mode = .eightBit) (b : Byte) (t : Nat) :
    ∃ l, l.Instructs s.cfg (hiNibble b) ∧ (s.emitAll (instr s.cfg b t)).sink = s.sink.pulse s.cfg l s.draws := by
  refine ⟨instructionLatches s.cfg s.latches b, ⟨rfl, asksRead_instructionLatches _ _, ?_⟩, ?_⟩
  · simp [topLines, hmode, instructionLatches]
  · rw [instr, xfer, hmode]
    exact s.emitAll_one_pulse_sink (by rw [Cfg.dw, hmode]) b t

/-! ### What a delivered byte leaves -/

theorem hiNibble_append (h l : Nibble) : hiNibble (h ++ l) = h := by
  revert h l
  decide

/-- Rule R56: the top lines are the high nibble of what an 8-bit interface reads. -/
theorem hiNibble_wholeByte (k : Nat) (d : Byte) : hiNibble (wholeByte cfg k d) = topLines cfg d := by
  unfold wholeByte topLines
  cases cfg.mode with
  | eightBit => rfl
  | fourBit => exact hiNibble_append _ _

theorem bits_of_functionSet (b : Byte) (h : hiNibble b = 0x3 ∨ hiNibble b = 0x2) :
    b.getLsbD 7 = false ∧ b.getLsbD 6 = false ∧ b.getLsbD 5 = true ∧ b.getLsbD 4 = decide (hiNibble b = 0x3) := by
  revert b
  decide

/-- Rule R57: a byte with 0b001 on top is a function set, its interface width in bit 4. -/
theorem Sink.execByte_of_functionSet (k : Nat) (sk : Sink) {b : Byte} (h : hiNibble b = 0x3 ∨ hiNibble b = 0x2) :
    sk.execByte cfg k b =
      { sk with wide := decide (hiNibble b = 0x3), n := b.getLsbD 3, f := b.getLsbD 2, half := none } := by
  obtain ⟨h7, h6, h5, h4⟩ := bits_of_functionSet b h
  simp only [Sink.execByte, h7, h6, h5, h4, Bool.false_eq_true, if_false, if_true]

/-- An instruction makes nothing unknown of a known sink, and no nibble pending. -/
theorem Sink.execByte_known_half (k : Nat) {sk : Sink} {b : Byte} (hb : b ≠ 0) (hhalf : sk.half = none) :
    (sk.execByte cfg k b).knowledge = sk.knowledge ∧ (sk.execByte cfg k b).half = none := by
  have hbit := exists_bit_of_ne_zero b hb
  unfold Sink.execByte Sink.cursorOrShift Sink.home Sink.clear
  repeat' split
  all_goals first
    | exact ⟨rfl, hhalf⟩
    | exact ⟨rfl, rfl⟩
    | simp_all

/-- Rules R57 to R60: clear alone changes a cell, and a byte with bit 1 set is not clear's, nor the all-zero byte. -/
theorem Sink.execByte_memory (k : Nat) (sk : Sink) {b : Byte} (h : b.getLsbD 1 = true) :
    (sk.execByte cfg k b).ddram = sk.ddram ∧ (sk.execByte cfg k b).cgram = sk.cgram := by
  unfold Sink.execByte Sink.cursorOrShift Sink.home
  simp only [h, if_true]
  repeat' split
  all_goals exact ⟨rfl, rfl⟩

/-! ### A pulse at a known sink -/

section Pulse

variable {v : Nibble} {l : Latches} {sk : Sink} (k : Nat)

theorem Sink.latch_of_wide (hl : l.Instructs cfg v) (hwide : sk.wide = true) :
    sk.latch cfg l k = sk.execByte cfg k (wholeByte cfg k l.d) := by
  simp [Sink.latch, Sink.deliver, hl.noRead, hl.rs, hwide]

theorem Sink.latch_of_first_nibble (hl : l.Instructs cfg v) (hwide : sk.wide = false) (hhalf : sk.half = none) :
    sk.latch cfg l k = { sk with half := some v } := by
  simp [Sink.latch, hl.noRead, hl.top, hwide, hhalf]

theorem Sink.latch_of_second_nibble {h : Nibble} (hl : l.Instructs cfg v) (hwide : sk.wide = false)
    (hhalf : sk.half = some h) :
    sk.latch cfg l k = Sink.execByte cfg k (h ++ v) { sk with half := none } := by
  simp [Sink.latch, Sink.deliver, hl.noRead, hl.rs, hl.top, hwide, hhalf]

/-- Rules R57 and R87: a nibble-only form at an 8-bit interface is a whole function set. -/
theorem Sink.latch_of_functionSet (hl : l.Instructs cfg v) (hv : v = 0x3 ∨ v = 0x2) (hwide : sk.wide = true) :
    ∃ n f, sk.latch cfg l k = { sk with wide := decide (v = 0x3), n := n, f := f, half := none } := by
  have htop : hiNibble (wholeByte cfg k l.d) = v := (hiNibble_wholeByte k l.d).trans hl.top
  rw [Sink.latch_of_wide k hl hwide, Sink.execByte_of_functionSet k sk (htop.symm ▸ hv), htop]
  exact ⟨_, _, rfl⟩

end Pulse

/-! ### Three forced pulses -/

/-- A known sink that `n` more forced pulses bring to an 8-bit interface with no nibble pending: it is there; or one pulse
away, 8 bits wide or with the nibble 0x3 pending; or two, with no nibble pending; any sink is no more than three away. -/
def Sink.ForcedWithin (n : Nat) (sk : Sink) : Prop :=
  (sk.wide = true ∧ sk.half = none) ∨ (1 ≤ n ∧ (sk.wide = true ∨ sk.half = some 0x3)) ∨ (2 ≤ n ∧ sk.half = none) ∨ 3 ≤ n

/-- Rule R57: the sink is `n` forced pulses from a known 8-bit interface: known, and that near, or awaiting them as those of
an init. -/
def Sink.ForcedLeft (n : Nat) (sk : Sink) : Prop :=
  (sk.knowledge = .known ∧ sk.ForcedWithin n) ∨ (1 ≤ n ∧ sk.knowledge = .recovering n)

theorem Sink.forcedLeft_zero {sk : Sink} :
    sk.ForcedLeft 0 ↔ sk.knowledge = .known ∧ sk.wide = true ∧ sk.half = none := by
  simp [Sink.ForcedLeft, Sink.ForcedWithin]

theorem isForcedPulse_of_instructs {l : Latches} (hl : l.Instructs cfg 0x3) : isForcedPulse cfg l = true := by
  simp [isForcedPulse, hl.noRead, hl.rs, hl.top]

section Forced

variable {l : Latches} {sk : Sink} (k : Nat)

/-- A forced pulse to an 8-bit interface, or onto a pending 0x3, is a function set to 8 bits. -/
theorem Sink.latch_forced_converges (hl : l.Instructs cfg 0x3) (h : sk.wide = true ∨ sk.half = some 0x3) :
    (sk.latch cfg l k).knowledge = sk.knowledge ∧ (sk.latch cfg l k).wide = true ∧ (sk.latch cfg l k).half = none := by
  cases hwide : sk.wide with
  | true =>
    obtain ⟨n, f, e⟩ := Sink.latch_of_functionSet k hl (.inl rfl) hwide
    rw [e]
    exact ⟨rfl, rfl, rfl⟩
  | false =>
    have hhalf : sk.half = some 0x3 := h.resolve_left (by simp [hwide])
    rw [Sink.latch_of_second_nibble k hl hwide hhalf, Sink.execByte_of_functionSet k _ (.inl (by decide))]
    exact ⟨rfl, rfl, rfl⟩

theorem nibble_append_three_ne_zero (h : Nibble) : h ++ (0x3 : Nibble) ≠ (0 : Byte) := by
  revert h
  decide

/-- Rule R57: each forced pulse brings a known sink one pulse nearer. -/
theorem Sink.latch_forcedLeft {n : Nat} (hl : l.Instructs cfg 0x3) (hknown : sk.knowledge = .known)
    (h : sk.ForcedWithin (n + 1)) : (sk.latch cfg l k).ForcedLeft n := by
  by_cases hnear : sk.wide = true ∨ sk.half = some 0x3
  · obtain ⟨e, hwide, hhalf⟩ := Sink.latch_forced_converges k hl hnear
    exact .inl ⟨e.trans hknown, .inl ⟨hwide, hhalf⟩⟩
  obtain ⟨hwide, hother⟩ := not_or.mp hnear
  have hn : 1 ≤ n ∧ (sk.half = none ∨ 2 ≤ n) := by
    rcases h with ⟨hw, -⟩ | ⟨-, hw⟩ | ⟨hn, hhalf⟩ | hn
    · exact absurd hw hwide
    · exact absurd hw hnear
    · exact ⟨by omega, .inl hhalf⟩
    · exact ⟨by omega, .inr (by omega)⟩
  rw [Bool.not_eq_true] at hwide
  cases hhalf : sk.half with
  | none =>
    rw [Sink.latch_of_first_nibble k hl hwide hhalf]
    exact .inl ⟨hknown, .inr (.inl ⟨hn.1, .inr rfl⟩)⟩
  | some nib =>
    rw [Sink.latch_of_second_nibble k hl hwide hhalf]
    obtain ⟨e, hnone⟩ := Sink.execByte_known_half (cfg := cfg) (sk := { sk with half := none }) k
      (nibble_append_three_ne_zero nib) rfl
    exact .inl ⟨e.trans hknown, .inr (.inr (.inl ⟨hn.2.resolve_left (by simp [hhalf]), hnone⟩))⟩

/-- Rules R57 and R61: each forced pulse brings the sink one pulse nearer, one that awaits an init's pulses by what the model
takes from rule R57 (log entry 26). -/
theorem Sink.pulse_forcedLeft {n : Nat} (hl : l.Instructs cfg 0x3) (h : sk.ForcedLeft (n + 1)) :
    (sk.pulse cfg l k).ForcedLeft n := by
  rcases h with ⟨hknown, h⟩ | ⟨-, h⟩
  · rw [Sink.pulse_of_known cfg l k hknown]
    exact Sink.latch_forcedLeft k hl hknown h
  · cases n with
    | zero =>
      simp only [Sink.pulse, h, isForcedPulse_of_instructs hl, if_true]
      exact Sink.forcedLeft_zero.mpr ⟨rfl, rfl, rfl⟩
    | succ n =>
      simp only [Sink.pulse, h, isForcedPulse_of_instructs hl, if_true]
      exact .inr ⟨by omega, rfl⟩

end Forced

/-- Rule R102 (a): FORCE8 and NARROW4 are function sets to 8 and to 4 bits. -/
theorem hiNibble_functionByte (h : cfg.standardBytes = true) (dl : Bool) :
    hiNibble (functionByte cfg dl false false) = if dl then 0x3 else 0x2 := by
  obtain ⟨-, -, -, -, -, hbyte, -⟩ := Cfg.standardBytes_iff.mp h
  rw [functionByte, hbyte]
  cases dl <;> rfl

/-- Rule R114: a forced function-set is one forced pulse in either mode. -/
theorem State.forcedEvents_sink (s : State) (h : s.cfg.standardBytes = true) (t : Nat) :
    ∃ l, l.Instructs s.cfg 0x3 ∧ (s.emitAll (forcedEvents s.cfg t)).sink = s.sink.pulse s.cfg l s.draws := by
  have htop : hiNibble (force8Byte s.cfg) = 0x3 := hiNibble_functionByte h true
  rw [← htop]
  unfold forcedEvents
  cases hmode : s.cfg.mode with
  | eightBit => exact s.instr_sink_of_eightBit hmode _ t
  | fourBit => exact s.instrHi_sink hmode _ t

theorem State.emitAll_forcedEvents_forcedLeft {s : State} {n : Nat} (hcfg : s.cfg = cfg) (hstd : cfg.standardBytes = true)
    (h : s.sink.ForcedLeft (n + 1)) (t : Nat) : (s.emitAll (forcedEvents cfg t)).sink.ForcedLeft n := by
  subst hcfg
  obtain ⟨l, hl, e⟩ := s.forcedEvents_sink hstd t
  rw [e]
  exact Sink.pulse_forcedLeft _ hl h

/-- Rules R57 and R114: the three forced function-sets of step 1 lead to a known 8-bit interface. -/
theorem State.initStep1_forcedLeft {s : State} (hstd : s.cfg.standardBytes = true) (h : s.sink.ForcedLeft 3) :
    (s.emitAll (initStep1 s.cfg)).sink.ForcedLeft 0 := by
  rw [initStep1, State.emitAll_append, State.emitAll_append]
  refine State.emitAll_forcedEvents_forcedLeft (by simp) hstd ?_ _
  refine State.emitAll_forcedEvents_forcedLeft (by simp) hstd ?_ _
  exact State.emitAll_forcedEvents_forcedLeft rfl hstd h _

theorem Sink.expectForced_forcedLeft (sk : Sink) : sk.expectForced.ForcedLeft 3 := by
  unfold Sink.expectForced
  split
  · exact .inl ⟨‹_›, .inr (.inr (.inr (by omega)))⟩
  · exact .inr ⟨by omega, rfl⟩
  · exact .inr ⟨by omega, rfl⟩

/-! ### The nibble-only rows -/

/-- Rule R87: in 4-bit mode a nibble-only row run alone is one pulse. -/
theorem exec_nibble_sink {s : State} {i : Instr} {v : Nibble} (hmode : s.cfg.mode = .fourBit)
    (hstd : s.cfg.standardBytes = true) (hi : i = .force8Nibble ∧ v = 0x3 ∨ i = .narrow4Nibble ∧ v = 0x2) :
    ∃ t l, exec i s = .next t ∧ l.Instructs s.cfg v ∧ t.sink = s.sink.pulse s.cfg l s.draws := by
  obtain ⟨b, w, hne, hcheck, hform, htop, hevents⟩ : ∃ b w, i ≠ .init ∧ checkOf i s = .ok ∧ refusalOf i s.cfg = none
      ∧ hiNibble b = v ∧ eventsOf i s = instrHi s.cfg b w := by
    rcases hi with ⟨rfl, rfl⟩ | ⟨rfl, rfl⟩
    · exact ⟨_, _, nofun, rfl, if_pos hmode, hiNibble_functionByte hstd true, rfl⟩
    · exact ⟨_, _, nofun, rfl, if_pos hmode, hiNibble_functionByte hstd false, rfl⟩
  obtain ⟨t, ht⟩ := exec_next_of_form s hform
  obtain ⟨l, hl, hpulse⟩ := s.instrHi_sink hmode b w
  refine ⟨t, l, ht, htop ▸ hl, ?_⟩
  rcases exec_sink_of_ne_init hne ht with ⟨herror, -⟩ | ⟨-, e⟩
  · exact absurd hcheck herror
  · rw [e, hevents, hpulse]

theorem nibble_append_bit_one (h : Nibble) {v : Nibble} (hv : v = 0x3 ∨ v = 0x2) : (h ++ v : Byte).getLsbD 1 = true := by
  revert h v
  decide

/-- Neither nibble makes the byte clear of what is pending (rules R57, R58): no cell changes. -/
theorem Sink.latch_nibble_memory {v : Nibble} {l : Latches} {sk : Sink} (k : Nat) (hl : l.Instructs cfg v)
    (hv : v = 0x3 ∨ v = 0x2) : (sk.latch cfg l k).ddram = sk.ddram ∧ (sk.latch cfg l k).cgram = sk.cgram := by
  cases hwide : sk.wide with
  | true =>
    obtain ⟨n, f, e⟩ := Sink.latch_of_functionSet k hl hv hwide
    rw [e]
    exact ⟨rfl, rfl⟩
  | false =>
    cases hhalf : sk.half with
    | none =>
      rw [Sink.latch_of_first_nibble k hl hwide hhalf]
      exact ⟨rfl, rfl⟩
    | some h =>
      rw [Sink.latch_of_second_nibble k hl hwide hhalf]
      exact Sink.execByte_memory k { sk with half := none } (nibble_append_bit_one h hv)

end Sys2Proof.Machine
end

section
/-! SUPPORT. An unknown sink under a micro-step and under an instruction (rule R61, log entry 26). -/

namespace Sys2Proof.Machine

variable {s : State}

theorem Sink.expectForced_of_unknown {sk : Sink} (h : sk.knowledge = .unknown) :
    sk.expectForced = { sk with knowledge := .recovering 3 } := by
  simp only [Sink.expectForced, h]

theorem State.advance_sink_of_unknown (h : s.sink.knowledge = .unknown) :
    s.advance.sink = s.sink ∨ ∃ k, s.advance.sink = Sink.unknown k := by
  rcases s.advance_sink with e | ⟨ev, e⟩
  · exact .inl e
  · rw [e]
    exact State.emitAll_of_unknown [ev] h

theorem exec_sink_of_unknown {i : Instr} {t : State} (hi : i ≠ .init) (h : s.sink.knowledge = .unknown)
    (hrun : exec i s = .next t) : t.sink = s.sink ∨ ∃ k, t.sink = Sink.unknown k := by
  rcases exec_sink_of_ne_init hi hrun with ⟨-, -, e⟩ | ⟨-, e⟩
  · exact .inl e
  · rw [e]
    exact State.emitAll_of_unknown _ h

end Sys2Proof.Machine
end

section
/-! SUPPORT. The statements of the family 20_memory settled: the display's memories, the addresses of its cells, and what
each byte, each operation and each init does at the sink. -/

namespace Sys2Proof.Machine

/-- Settles O56: an unknown memory is canonical, every byte and every pulse keeps the form, and nothing but pulses, draws
and the acceptance of an init touches the memories. -/
theorem stepKeepsMemoryCanonical : Obligations.StepKeepsMemoryCanonical := by
  unfold Obligations.StepKeepsMemoryCanonical
  refine ⟨(State.memoryWf_iff _).mpr (Sink.unknown_memoryWf 0), fun s t hwf hstep => ?_⟩
  rw [State.memoryWf_iff] at hwf ⊢
  obtain ⟨rest, hcases⟩ := step_cases s hstep
  have hwf' : State.sink { s with inputs := rest } |>.memoryWf := hwf
  rcases hcases with rfl | rfl | ⟨cfg, -, -, rfl⟩ | ⟨-, i, hrun | hstart⟩
  · exact State.advance_memoryWf hwf'
  · exact Sink.unknown_memoryWf s.draws
  · exact State.reconstruct_memoryWf cfg hwf'
  · exact exec_memoryWf hwf' hrun
  · exact startOp_memoryWf hwf' hstart

/-- Settles O16: a step appends the engine's own events, and construction begins a trace of its own. -/
theorem stepNeverReadsDisplay : Obligations.StepNeverReadsDisplay := by
  unfold Obligations.StepNeverReadsDisplay
  refine ⟨neverReads_constructionEvents resetCfg, fun s t hnone hstep => ?_⟩
  obtain ⟨rest, hcases⟩ := step_cases s hstep
  have hnone' : neverReads (State.trace { s with inputs := rest }) = true := hnone
  rcases hcases with rfl | rfl | ⟨cfg, -, -, rfl⟩ | ⟨-, i, hrun | hstart⟩
  · exact State.advance_neverReads hnone'
  · exact hnone
  · exact neverReads_constructionEvents cfg
  · exact exec_neverReads hnone' hrun
  · rw [startOp_trace hstart]; exact hnone

/-- Settles O20: the table of a well-formed geometry has the row, and its columns fit 7 bits. -/
theorem ddramAddressIsBasePlusColumn : Obligations.DdramAddressIsBasePlusColumn := by
  unfold Obligations.DdramAddressIsBasePlusColumn
  intro cfg c r hwf hc hc' hr hr'
  obtain ⟨base, hbase, hlast⟩ := Cfg.rowBase_of_wf hwf hr hr'
  have hfits : (base : Int) + c ≤ 0x7F := by omega
  exact ⟨base, hbase, Cfg.toNat_ddramAddr hbase hc hfits, hfits⟩

/-- Settles O21: each row's base is read off the default table, and the sum fits 7 bits in all five geometries. -/
theorem fiveGeometriesAddress : Obligations.FiveGeometriesAddress := by
  unfold Obligations.FiveGeometriesAddress
  intro cols rows hmem rs e lines rw bl c r hc hc' hr hr' cfg
  have hsum {base : Nat} (hbase : cfg.rowBase[r.toNat]? = some base) (hfits : (base : Int) + c ≤ 0x7F) :
      ((ddramByte cfg (cfg.ddramAddr c r)).toNat : Int) = 0x80 + base + c := by
    rw [toNat_ddramByte rfl]
    have := Cfg.toNat_ddramAddr hbase hc hfits
    omega
  have hgeometry : (cols = 16 ∨ cols = 20) ∧ (rows = 1 ∨ rows = 2 ∨ rows = 4) := by
    simp only [List.mem_cons, Prod.mk.injEq, List.not_mem_nil, or_false] at hmem
    omega
  obtain ⟨rfl | rfl, rfl | rfl | rfl⟩ := hgeometry <;> interval_cases r <;>
    exact hsum rfl (by push_cast; omega)

/-- Settles O40: an engine is the same before any sink, so it runs alike. -/
theorem engineIgnoresDisplay : Obligations.EngineIgnoresDisplay := by
  unfold Obligations.EngineIgnoresDisplay
  intro i s t sink draws h
  obtain ⟨t', ht', he⟩ := exec_engine_congr (s := s) (s' := { s with sink := sink, draws := draws }) rfl h
  have hinputs : t'.inputs = t.inputs := (exec_inputs ht').trans (exec_inputs h).symm
  exact ⟨t'.sink, t'.draws, ht'.trans (congrArg _ (State.eq_of_engine_eq he hinputs))⟩

/-- Settles O48: the sink in agreement takes the one byte that clear sends, which erases all of DDRAM. -/
theorem clearBlanksDisplay : Obligations.ClearBlanksDisplay := by
  unfold Obligations.ClearBlanksDisplay
  intro s hinitialized hsynced
  obtain ⟨t, ht⟩ := exec_next_of_form s (i := .clear) rfl
  obtain ⟨k, hsink⟩ := exec_sink_of_instr (i := .clear) nofun hsynced.inStep rfl (s.gate_of_initialized hinitialized) ht
  rw [Sink.execByte_clearByte k s.sink hsynced.bytes] at hsink
  refine ⟨t, ht, ?_⟩
  rw [hsink]
  exact ⟨fun a ha => (Memory.read_fill 128 0x20 a).trans (if_pos ha), rfl, rfl, fun _ => rfl⟩

/-- Settles O49: the sink in agreement takes the one byte that each operation sends, none of which stores; backlight sends
no byte, and a failed operation nothing. -/
theorem operationsThatStoreNothing : Obligations.OperationsThatStoreNothing := by
  unfold Obligations.OperationsThatStoreNothing
  intro i s t hsynced hrun hop
  have hne : i ≠ .init := by rintro rfl; exact hop
  rcases exec_sink_of_ne_init hne hrun with ⟨herror, hstatus, e⟩ | ⟨hcheck, e⟩
  · have hfailed {P : Prop} (h : t.status = .ok) : P := absurd (hstatus ▸ h) herror
    rw [e]
    exact ⟨fun _ => rfl, fun _ => rfl, fun _ _ _ => hfailed, fun _ => hfailed, fun _ _ => hfailed⟩
  have hbyte {b : Byte} {w : Nat} (hevents : eventsOf i s = instr s.cfg b w) :
      ∃ k, t.sink = s.sink.execByte s.cfg k b := exec_sink_of_instr hne hsynced.inStep hevents hcheck hrun
  cases i with
  | home =>
    obtain ⟨k, e⟩ := hbyte rfl
    rw [e, Sink.execByte_homeByte k s.sink hsynced.bytes]
    exact ⟨fun _ => rfl, fun _ => rfl, nofun, fun _ _ => ⟨rfl, rfl⟩, nofun⟩
  | position c r =>
    obtain ⟨k, e⟩ := hbyte rfl
    rw [e, Sink.execByte_ddramByte k s.sink hsynced.bytes]
    exact ⟨fun _ => rfl, fun _ => rfl, fun _ _ h _ => by cases h; rfl, nofun, nofun⟩
  | displayOnOff _ | cursor _ _ =>
    obtain ⟨k, e⟩ := hbyte rfl
    rw [e, Sink.execByte_displayByte k s.sink hsynced.bytes]
    exact ⟨fun _ => rfl, fun _ => rfl, nofun, nofun, nofun⟩
  | backlight v =>
    rw [e, show (s.emitAll (eventsOf (.backlight v) s)).sink = s.sink from State.backlightEvents_sink v]
    exact ⟨fun _ => rfl, fun _ => rfl, nofun, nofun, nofun⟩
  | displayShift direction =>
    obtain ⟨k, e⟩ := hbyte rfl
    rw [e, Sink.execByte_shiftByte k s.sink hsynced.bytes]
    refine ⟨fun _ => rfl, fun _ => rfl, nofun, nofun, ?_⟩
    rintro _ ⟨⟩ -
    have hshift : (s.sink.cursorOrShift s.cfg k true (decide (direction = .right))).shift
        = s.sink.shift + Sink.shiftStep (direction == .right) := rfl
    refine ⟨rfl, hshift, ?_⟩
    rw [hshift]
    rcases Sink.shiftStep_eq (direction == .right) with h | h
    · exact .inl (by rw [h])
    · exact .inr (by rw [h]; rfl)
  | _ => exact hop.elim

/-- Settles O53: a transfer to a sink in step delivers its byte, byte by byte; a row that runs alone emits its events. -/
theorem transferEffectsAtDisplay : Obligations.TransferEffectsAtDisplay := by
  unfold Obligations.TransferEffectsAtDisplay
  intro s hstd hstep leaves sends
  have hsends {b : Byte} {after : Nat → Sink} (h : ∀ k, s.sink.execByte s.cfg k b = after k) (w : Nat) :
      ∃ k, (s.emitAll (instr s.cfg b w)).sink = after k := ⟨_, (State.instr_sink b w hstep).trans (h _)⟩
  refine ⟨hsends fun k => Sink.execByte_clearByte k _ hstd, hsends fun k => Sink.execByte_homeByte k _ hstd,
    fun i sh => hsends fun k => Sink.execByte_entryByte k _ hstd i sh,
    fun d c b => hsends fun k => Sink.execByte_displayByte k _ hstd d c b,
    fun r => hsends fun k => Sink.execByte_shiftByte k _ hstd true r,
    fun r => hsends fun k => Sink.execByte_shiftByte k _ hstd false r,
    fun l n f => hsends fun k => Sink.execByte_functionByte k _ hstd l n f,
    fun a => hsends fun k => Sink.execByte_cgramByte k _ hstd a,
    fun a => hsends fun k => Sink.execByte_ddramByte k _ hstd a,
    fun b htarget => ⟨_, (State.data_sink b hstep).trans (Sink.storeByte_of_ddram _ htarget b)⟩,
    fun b htarget => ⟨_, (State.data_sink b hstep).trans (Sink.storeByte_of_cgram _ htarget b)⟩,
    fun i t hrow hrun => ⟨eventsOf i s, ?_⟩⟩
  have hcheck : checkOf i s = .ok := checkOf_of_not_isOperation s hrow
  have hne : i ≠ .init := by rintro rfl; cases hrow
  constructor
  · rcases exec_cases hrun with ⟨-, -, rfl⟩ | ⟨herror, -⟩
    · exact (s.ran_commitOf i _).trace
    · exact absurd hcheck herror
  · rcases exec_sink_of_ne_init hne hrun with ⟨herror, -⟩ | ⟨-, e⟩
    · exact absurd hcheck herror
    · exact e

/-- Settles O45: each forced function-set is one pulse that brings the sink one nearer to a known 8-bit interface, and no
sink is more than three away once an init is accepted. -/
theorem forcedSendsConverge : Obligations.ForcedSendsConverge := by
  unfold Obligations.ForcedSendsConverge
  intro s hstd
  constructor
  · have hentry : (initEntry s).sink.ForcedLeft 3 := Sink.expectForced_forcedLeft _
    obtain ⟨hknown, hwide, hhalf⟩ := Sink.forcedLeft_zero.mp (State.initStep1_forcedLeft (s := initEntry s) hstd hentry)
    exact ⟨hwide, hhalf, hknown⟩
  · intro hknown
    have hleft : s.sink.ForcedLeft 3 := .inl ⟨hknown, .inr (.inr (.inr le_rfl))⟩
    exact (Sink.forcedLeft_zero.mp (State.initStep1_forcedLeft hstd hleft)).2

/-- Settles O54: run alone, a nibble-only row is one pulse, whose effect depends on the width of the sink's interface. -/
theorem nibbleEffectsAtDisplay : Obligations.NibbleEffectsAtDisplay := by
  unfold Obligations.NibbleEffectsAtDisplay
  intro s i v hmode hstd hi
  obtain ⟨t, l, ht, hl, hsink⟩ := exec_nibble_sink hmode hstd hi
  have hv : v = 0x3 ∨ v = 0x2 := hi.imp And.right And.right
  refine ⟨t, ht, fun hunknown => ⟨s.draws, ?_⟩, fun hknown => ?_⟩
  · rw [hsink, Sink.pulse_of_unknown _ _ _ hunknown]
  · rw [hsink, Sink.pulse_of_known _ _ _ hknown]
    obtain ⟨hddram, hcgram⟩ := Sink.latch_nibble_memory (sk := s.sink) s.draws hl hv
    refine ⟨fun _ => by rw [hddram], fun _ => by rw [hcgram], fun hwide => ?_,
      fun hwide hhalf => Sink.latch_of_first_nibble _ hl hwide hhalf⟩
    obtain ⟨n, f, e⟩ := Sink.latch_of_functionSet s.draws hl hv hwide
    rw [e]
    exact ⟨rfl, rfl, rfl, rfl⟩

/-- Settles O58, move by move: nothing but the acceptance of an init marks an unknown sink otherwise. -/
theorem unknownDisplayStaysUnknown : Obligations.UnknownDisplayStaysUnknown := by
  unfold Obligations.UnknownDisplayStaysUnknown
  intro s t hunknown hstep
  rcases step_eq_next s hstep with ⟨-, rfl⟩ | ⟨m, rest, hinputs, hmove⟩
  · exact .inl (State.advance_sink_of_unknown hunknown)
  cases m with
  | operate x =>
    obtain ⟨i, hdecode, hrun⟩ := present_eq_next_decoded _ hmove
    by_cases hi : i = .init
    · exact .inr (.inr ⟨x, rest, hinputs, hi ▸ hdecode⟩)
    · exact .inl (exec_sink_of_unknown (s := { s with inputs := rest }) hi hunknown hrun)
  | start x =>
    obtain ⟨i, -, hstart⟩ := present_eq_next_decoded _ hmove
    rcases startOp_cases _ hstart with ⟨-, -, rfl⟩ | ⟨-, -, rfl⟩
    · by_cases hi : i = .init
      · subst hi
        exact .inr (.inl ⟨rfl, rfl, by rw [entryOf_init_sink, Sink.expectForced_of_unknown]; exact hunknown⟩)
      · exact .inl (.inl (entryOf_sink_of_ne_init _ hi))
    · exact .inl (.inl rfl)
  | wait => cases hmove; exact .inl (State.advance_sink_of_unknown (s := { s with inputs := rest }) hunknown)
  | construct cfg =>
    simp only [hostMove] at hmove
    split at hmove
    · cases hmove
      exact .inl (State.reconstruct_sink { s with inputs := rest } cfg)
    · cases hmove
  | powerDisplay => cases hmove; exact .inl (.inr ⟨s.draws, rfl⟩)

end Sys2Proof.Machine
end

section
/-! SUPPORT. What the decoder reads: the operands of an encoded instruction, the operation a command word names and the bits
it uses (rule R65), and the highest set bit of a transfer word (rule R67). -/

namespace Sys2Proof

/-! ### Operands read back -/

theorem coordOf_field {c : Coord} (h : c.wellFormed = true) : coordOf c.isCurrent c.field = c :=
  match c, h with
  | .current, _ => rfl
  | .at _, h => congrArg Coord.at (toInt_ofInt_of_fits16 h)

@[simp] theorem directionOf_bit (d : Direction) : directionOf d.bit = d := by cases d <;> rfl

@[simp] theorem getElem_boolField_zero (v : Bool) : (boolField v)[0] = v := by cases v <;> rfl

/-- A byte in the low half of its 16-bit field. -/
@[simp] theorem extractLsb'_setWidth_byte (code : Byte) : (code.setWidth 16).extractLsb' 0 8 = code := by
  ext k hk
  simp [BitVec.getLsbD_eq_getElem, hk]
  omega

/-- The payload of create_char read back. -/
theorem takeCounted_pattern {pattern : List Byte} (h : pattern.length < 2 ^ 8) :
    takeCounted 8 8 (putCounted 8 8 (pattern.map BitVec.toNat)) = some (pattern.map BitVec.toNat) := by
  apply takeCounted_putCounted
  · simpa using h
  · intro v hv
    obtain ⟨b, -, rfl⟩ := List.mem_map.1 hv
    exact b.isLt

/-! ### The highest set bit of a transfer word -/

section HighestBit
variable {w : BitVec 9}

/-- A word in `[2^k, 2^(k+1))` has bit `k` set and none above it. -/
theorem highestBit_of_toNat {k : Nat} (hle : 2 ^ k ≤ w.toNat) (hlt : w.toNat < 2 ^ (k + 1)) :
    w.getLsbD k = true ∧ ∀ j, k < j → w.getLsbD j = false := by
  refine ⟨Nat.testBit_of_two_pow_le_and_two_pow_add_one_gt hle hlt, fun j hj => Nat.testBit_lt_two_pow ?_⟩
  exact hlt.trans_le (Nat.pow_le_pow_right (by decide) hj)

/-- The bits below the highest one, which `2 ^ n` stands for. -/
theorem extractLsb'_zero_eq_ofNat_sub {n : Nat} (hle : 2 ^ n ≤ w.toNat) :
    w.extractLsb' 0 n = BitVec.ofNat n (w.toNat - 2 ^ n) := by
  apply BitVec.eq_of_toNat_eq
  rw [BitVec.extractLsb'_toNat, Nat.shiftRight_zero, BitVec.toNat_ofNat, Nat.mod_eq_sub_mod hle]

theorem decodeLcd9_of_highest_eight (h : 256 ≤ w.toNat) :
    decodeLcd9 w = .ok (.writeData (BitVec.ofNat 8 (w.toNat - 256))) := by
  obtain ⟨hbit, -⟩ := highestBit_of_toNat (k := 8) h w.isLt
  simp only [decodeLcd9, hbit, if_true, extractLsb'_zero_eq_ofNat_sub (n := 8) h, Nat.reducePow]

theorem decodeLcd9_of_highest_seven (h : 128 ≤ w.toNat) (h' : w.toNat < 256) :
    decodeLcd9 w = .ok (.setDdramAddr (BitVec.ofNat 7 (w.toNat - 128))) := by
  obtain ⟨hbit, hhigher⟩ := highestBit_of_toNat (k := 7) h h'
  simp [decodeLcd9, hbit, hhigher, extractLsb'_zero_eq_ofNat_sub (n := 7) h, -BitVec.getLsbD_eq_getElem]

theorem decodeLcd9_of_highest_six (h : 64 ≤ w.toNat) (h' : w.toNat < 128) :
    decodeLcd9 w = .ok (.setCgramAddr (BitVec.ofNat 6 (w.toNat - 64))) := by
  obtain ⟨hbit, hhigher⟩ := highestBit_of_toNat (k := 6) h h'
  simp [decodeLcd9, hbit, hhigher, extractLsb'_zero_eq_ofNat_sub (n := 6) h, -BitVec.getLsbD_eq_getElem]

theorem decodeLcd9_of_highest_five (h : 32 ≤ w.toNat) (h' : w.toNat < 64) :
    decodeLcd9 w = .ok (.functionSet (w.getLsbD 4) (w.getLsbD 3) (w.getLsbD 2)) := by
  obtain ⟨hbit, hhigher⟩ := highestBit_of_toNat (k := 5) h h'
  simp [decodeLcd9, hbit, hhigher, -BitVec.getLsbD_eq_getElem]

theorem decodeLcd9_of_highest_four (h : 16 ≤ w.toNat) (h' : w.toNat < 32) :
    decodeLcd9 w = .ok (.cursorDisplayShift (w.getLsbD 3) (w.getLsbD 2)) := by
  obtain ⟨hbit, hhigher⟩ := highestBit_of_toNat (k := 4) h h'
  simp [decodeLcd9, hbit, hhigher, -BitVec.getLsbD_eq_getElem]

theorem decodeLcd9_of_highest_three (h : 8 ≤ w.toNat) (h' : w.toNat < 16) :
    decodeLcd9 w = .ok (.displayControl (w.getLsbD 2) (w.getLsbD 1) (w.getLsbD 0)) := by
  obtain ⟨hbit, hhigher⟩ := highestBit_of_toNat (k := 3) h h'
  simp [decodeLcd9, hbit, hhigher, -BitVec.getLsbD_eq_getElem]

theorem decodeLcd9_of_highest_two (h : 4 ≤ w.toNat) (h' : w.toNat < 8) :
    decodeLcd9 w = .ok (.entryModeSet (w.getLsbD 1) (w.getLsbD 0)) := by
  obtain ⟨hbit, hhigher⟩ := highestBit_of_toNat (k := 2) h h'
  simp [decodeLcd9, hbit, hhigher, -BitVec.getLsbD_eq_getElem]

theorem decodeLcd9_of_highest_one (h : 2 ≤ w.toNat) (h' : w.toNat < 4) : decodeLcd9 w = .ok .returnHome := by
  obtain ⟨hbit, hhigher⟩ := highestBit_of_toNat (k := 1) h h'
  simp [decodeLcd9, hbit, hhigher, -BitVec.getLsbD_eq_getElem]

end HighestBit

/-! ### Decoding an encoded instruction -/

/-- A field below a constant, as a number. -/
theorem toNat_append_eq_add {m n : Nat} (x : BitVec m) (a : BitVec n) :
    (x ++ a).toNat = x.toNat * 2 ^ n + a.toNat := by
  rw [BitVec.toNat_append, ← Nat.shiftLeft_add_eq_or_of_lt a.isLt, Nat.shiftLeft_eq]

theorem decodeLcd9_setCgramAddr (a : BitVec 6) : decodeLcd9 (0b001#3 ++ a) = .ok (.setCgramAddr a) := by
  have hval : (0b001#3 ++ a).toNat = 64 + a.toNat := toNat_append_eq_add 0b001#3 a
  have ha : a.toNat < 64 := a.isLt
  have := decodeLcd9_of_highest_six (w := 0b001#3 ++ a) (by omega) (by omega)
  simpa [hval] using this

theorem decodeLcd9_setDdramAddr (a : BitVec 7) : decodeLcd9 (0b01#2 ++ a) = .ok (.setDdramAddr a) := by
  have hval : (0b01#2 ++ a).toNat = 128 + a.toNat := toNat_append_eq_add 0b01#2 a
  have ha : a.toNat < 128 := a.isLt
  have := decodeLcd9_of_highest_seven (w := 0b01#2 ++ a) (by omega) (by omega)
  simpa [hval] using this

theorem decodeLcd9_writeData (b : Byte) : decodeLcd9 (0b1#1 ++ b) = .ok (.writeData b) := by
  have hval : (0b1#1 ++ b).toNat = 256 + b.toNat := toNat_append_eq_add 0b1#1 b
  have := decodeLcd9_of_highest_eight (w := 0b1#1 ++ b) (by omega)
  simpa [hval] using this

/-- Rules R65, R67, R68, R71: what the encoder writes the decoder reads, row by row. -/
theorem decode_encode {cpWidth : Nat} {i : Instr} (h : i.wellFormed cpWidth = true) :
    decode cpWidth (encode cpWidth i) = .ok i := by
  cases i with
  | init | clear | home | writeChar | displayOnOff | backlight | displayShift | cursor =>
    simp [encode, decode, decodeHost]
  | position col row =>
    obtain ⟨hcol, hrow⟩ : fits16 col = true ∧ fits16 row = true := by simpa [Instr.wellFormed] using h
    simp [encode, decode, decodeHost, toInt_ofInt_of_fits16 hcol, toInt_ofInt_of_fits16 hrow]
  | write text col row =>
    obtain ⟨⟨⟨hcol, hrow⟩, hlen⟩, hcodes⟩ :
        ((col.wellFormed = true ∧ row.wellFormed = true) ∧ text.length < 2 ^ 16) ∧ ∀ c ∈ text, c < 2 ^ cpWidth := by
      simpa [Instr.wellFormed] using h
    simp [encode, decode, decodeHost, takeCounted_putCounted hlen hcodes, coordOf_field hcol, coordOf_field hrow]
  | createChar slot pattern =>
    obtain ⟨hslot, hlen⟩ : fits16 slot = true ∧ pattern.length < 2 ^ 8 := by simpa [Instr.wellFormed] using h
    simp [encode, decode, decodeHost, takeCounted_pattern hlen, toInt_ofInt_of_fits16 hslot, Function.comp_def]
  | clearDisplay | returnHome | force8Nibble | narrow4Nibble => rfl
  | entryModeSet i s => cases i <;> cases s <;> rfl
  | cursorDisplayShift s r => cases s <;> cases r <;> rfl
  | displayControl d c b => cases d <;> cases c <;> cases b <;> rfl
  | functionSet l n f => cases l <;> cases n <;> cases f <;> rfl
  | setCgramAddr a => exact decodeLcd9_setCgramAddr a
  | setDdramAddr a => exact decodeLcd9_setDdramAddr a
  | writeData b => exact decodeLcd9_writeData b

/-! ### The operation of a command word -/

theorem toNat_opField (w : BitVec 40) : (opField w).toNat = (w >>> 36).toNat := by
  have hlt : w.toNat / 2 ^ 36 < 2 ^ 4 := by have := w.isLt; omega
  rw [opField, BitVec.extractLsb'_toNat, BitVec.toNat_ushiftRight, Nat.shiftRight_eq_div_pow, Nat.mod_eq_of_lt hlt]

/-- Rule R66: a command word is rejected as reserved exactly when its `op` is 11 to 15, whatever its payload. -/
theorem decodeHost_eq_reservedOpcode_iff {cpWidth : Nat} {w : BitVec 40} {payload : List Bool} :
    decodeHost cpWidth w payload = .error .reservedOpcode ↔ 11 ≤ (opField w).toNat := by
  unfold decodeHost
  generalize (opField w).toNat = op
  split
  case h_12 => simp only [imp_false] at *; simp only [true_iff]; omega
  case h_5 | h_9 => split <;> simp
  all_goals simp

/-- A command word names a host operation, never a transfer. -/
theorem isOperation_of_decodeHost {cpWidth : Nat} {w : BitVec 40} {payload : List Bool} {i : Instr}
    (h : decodeHost cpWidth w payload = .ok i) : i.isOperation = true := by
  unfold decodeHost at h
  split at h
  case h_5 | h_9 => split at h <;> cases h; rfl
  case h_12 => cases h
  all_goals cases h; rfl

/-! ### The bits an operation uses -/

section UsedBits
variable {w w' mask : BitVec 40}

/-- Two words that agree under a mask agree on a field that the mask covers. -/
theorem extractLsb'_congr_of_mask (h : w &&& mask = w' &&& mask) {start len : Nat}
    (hmask : mask.extractLsb' start len = BitVec.allOnes len) : w.extractLsb' start len = w'.extractLsb' start len := by
  have := congrArg (BitVec.extractLsb' start len) h
  simpa only [BitVec.extractLsb'_and, hmask, BitVec.and_allOnes] using this

theorem getLsbD_congr_of_mask (h : w &&& mask = w' &&& mask) {k : Nat} (hmask : mask.getLsbD k = true) :
    w.getLsbD k = w'.getLsbD k := by
  have := congrArg (BitVec.getLsbD · k) h
  simpa only [BitVec.getLsbD_and, hmask, Bool.and_true] using this

theorem aField_congr (h : w &&& mask = w' &&& mask) (hmask : mask.extractLsb' 16 16 = BitVec.allOnes 16) :
    aField w = aField w' := extractLsb'_congr_of_mask h hmask

theorem bField_congr (h : w &&& mask = w' &&& mask) (hmask : mask.extractLsb' 0 16 = BitVec.allOnes 16) :
    bField w = bField w' := extractLsb'_congr_of_mask h hmask

end UsedBits

theorem getLsbD_aField_zero (w : BitVec 40) : (aField w).getLsbD 0 = w.getLsbD 16 := by
  simp [aField, BitVec.getLsbD_extractLsb', -BitVec.getLsbD_eq_getElem]

theorem getLsbD_bField_zero (w : BitVec 40) : (bField w).getLsbD 0 = w.getLsbD 0 := by
  simp [bField, BitVec.getLsbD_extractLsb', -BitVec.getLsbD_eq_getElem]

theorem extractLsb'_aField_byte (w : BitVec 40) : (aField w).extractLsb' 0 8 = w.extractLsb' 16 8 := by
  ext k hk
  simp [aField]
  omega

/-- Rule R65: the integer field of a coordinate that is *current* is not used. -/
theorem coordOf_congr {cur cur' : Bool} {field field' : BitVec 16} (hcur : cur = cur')
    (hfield : cur = false → field = field') : coordOf cur field = coordOf cur' field' := by
  subst hcur
  cases cur with
  | true => simp [coordOf]
  | false => rw [hfield rfl]

end Sys2Proof

namespace Sys2Proof.Machine

/-! ### Presenting -/

/-- Rule R171: an operate move is presented to be run. -/
theorem step_of_operate {s : State} {x : Encoded} {rest : List Input} (hwf : s.cfg.wf = true)
    (hmove : s.inputs = .operate x :: rest) : step s = present exec x { s with inputs := rest } := by
  simp [step, portStep, hostMove, hwf, hmove]

/-- Rule R66: an idle engine refuses a command word as reserved exactly when the decoder rejects it so, since no host
operation is refused. -/
theorem present_exec_eq_reservedOpcode_iff {s : State} {w : BitVec 40} {payload : List Bool} (hidle : s.busy = false) :
    present exec (.host w payload) s = .refused .reservedOpcode ↔
      decodeHost s.cfg.cpWidth w payload = .error .reservedOpcode := by
  simp only [present, hidle, Bool.false_eq_true, if_false, decode]
  cases hdecode : decodeHost s.cfg.cpWidth w payload with
  | error err => cases err <;> simp [undecodable]
  | ok i =>
    obtain ⟨t, hrun⟩ := exec_next_of_form s (refusalOf_of_isOperation (isOperation_of_decodeHost hdecode) s.cfg)
    simp [hrun]

end Sys2Proof.Machine
end

section
/-! SUPPORT. The statements of the family 30_encoding settled: the decoder and the encoder. -/

namespace Sys2Proof.Machine

/-- Settles O9, row by row: every operand that fits its field is read back from it. -/
theorem decodeInvertsEncode : Obligations.DecodeInvertsEncode := by
  unfold Obligations.DecodeInvertsEncode
  exact fun _ _ => decode_encode

/-- Settles O8: only the decoder names a reserved opcode, and each operation reads only fields its mask covers. -/
theorem reservedOpcodesAreRefused : Obligations.ReservedOpcodesAreRefused := by
  unfold Obligations.ReservedOpcodesAreRefused
  refine ⟨fun s w payload rest hwf hidle hmove => ?_, ?_⟩
  · rw [step_of_operate hwf hmove, present_exec_eq_reservedOpcode_iff (s := { s with inputs := rest }) hidle,
      decodeHost_eq_reservedOpcode_iff, toNat_opField]
  · intro cpWidth w w' payload used h
    have hop : opField w = opField w' :=
      extractLsb'_congr_of_mask h (by
        simp only [used]
        split
        case h_2 => split_ifs <;> rfl
        all_goals rfl)
    simp only [used, ← toNat_opField] at h
    simp only [decode, decodeHost, ← hop]
    split <;> rename_i heq
    -- init, clear, home and the reserved opcodes use no operand; then one case per operation, in the order of `op`
    case h_1 | h_2 | h_3 | h_12 => rfl
    all_goals simp only [heq] at h
    case h_4 => rw [aField_congr h (by decide), bField_congr h (by decide)]
    case h_5 =>
      have hcol : coordOf (colCurField w) (aField w) = coordOf (colCurField w') (aField w') :=
        coordOf_congr (getLsbD_congr_of_mask h (by split_ifs <;> decide))
          (fun hcur => aField_congr h (by
            simp only [show w.getLsbD 33 = false from hcur, Bool.false_eq_true, if_false]
            split_ifs <;> decide))
      have hrow : coordOf (rowCurField w) (bField w) = coordOf (rowCurField w') (bField w') :=
        coordOf_congr (getLsbD_congr_of_mask h (by split_ifs <;> decide))
          (fun hcur => bField_congr h (by
            simp only [show w.getLsbD 32 = false from hcur, Bool.false_eq_true, if_false]
            split_ifs <;> decide))
      rw [hcol, hrow]
    case h_6 => rw [extractLsb'_aField_byte, extractLsb'_aField_byte, extractLsb'_congr_of_mask h (by decide)]
    case h_9 => rw [aField_congr h (by decide)]
    case h_7 | h_8 | h_10 =>
      rw [getLsbD_aField_zero, getLsbD_aField_zero, getLsbD_congr_of_mask h (by decide)]
    case h_11 =>
      rw [getLsbD_aField_zero, getLsbD_aField_zero, getLsbD_congr_of_mask h (k := 16) (by decide),
        getLsbD_bField_zero, getLsbD_bField_zero, getLsbD_congr_of_mask h (k := 0) (by decide)]

/-- Settles O11: each range of words has one highest set bit, and the fields below it are digits of the word. -/
theorem transferWordsDecodeByHighestBit : Obligations.TransferWordsDecodeByHighestBit := by
  unfold Obligations.TransferWordsDecodeByHighestBit
  intro w
  refine ⟨decodeLcd9_of_highest_eight, decodeLcd9_of_highest_seven, decodeLcd9_of_highest_six,
    fun h h' => ⟨_, _, _, decodeLcd9_of_highest_five h h', ?_⟩, fun h h' => ⟨_, _, decodeLcd9_of_highest_four h h', ?_⟩,
    fun h h' => ⟨_, _, _, decodeLcd9_of_highest_three h h', ?_⟩, fun h h' => ⟨_, _, decodeLcd9_of_highest_two h h', ?_⟩,
    decodeLcd9_of_highest_one, fun h => ?_, fun h => ?_⟩
  case refine_5 => obtain rfl : w = 1#9 := BitVec.eq_of_toNat_eq h; rfl
  case refine_6 => obtain rfl : w = 0#9 := BitVec.eq_of_toNat_eq h; rfl
  all_goals simp only [← BitVec.testBit_toNat, Nat.toNat_testBit]; omega

/-- Settles O10: each word is the encoding of the instruction it decodes to. -/
theorem specWordsDecode : Obligations.SpecWordsDecode := by
  unfold Obligations.SpecWordsDecode
  exact ⟨decode_encode (i := .position 99 99) rfl, decode_encode (i := .position (-1) 0) rfl,
    decode_encode (i := .writeChar 0x41) rfl, decode_encode (i := .cursor true true) rfl,
    decode_encode (i := .functionSet false true false) rfl, decode_encode (i := .setDdramAddr 0x43) rfl,
    decode_encode (i := .writeData 0x41) rfl, decode_encode (i := .force8Nibble) rfl⟩

end Sys2Proof.Machine
end

section
/-! SUPPORT. The shape of the engine's transfers (rules R84, R86, R87, R89), and what the sink takes of a segment: its
latched view (rule R92). -/

namespace Sys2Proof.Machine

/-! ### The shape of a transfer -/

theorem setWidth_hiNibble (b : Byte) : (hiNibble b).setWidth 8 = b >>> 4 := by
  revert b
  decide

theorem setWidth_loNibble (b : Byte) : (loNibble b).setWidth 8 = b &&& 0x0F := by
  revert b
  decide

theorem xfer_of_eightBit {cfg : Cfg} (h : cfg.mode = .eightBit) (rs : Bool) (b : Byte) :
    xfer cfg rs b = [.ctrl rs false, .data 8 b, .e true, .wait cfg.tPw, .e false] := by
  rw [xfer, h]
  rfl

theorem xfer_of_fourBit {cfg : Cfg} (h : cfg.mode = .fourBit) (rs : Bool) (b : Byte) :
    xfer cfg rs b = [.ctrl rs false, .data 4 (b >>> 4), .e true, .wait cfg.tPw, .e false,
      .data 4 (b &&& 0x0F), .e true, .wait cfg.tPw, .e false] := by
  rw [xfer, h, ← setWidth_hiNibble, ← setWidth_loNibble]
  rfl

theorem xferHi_eq (cfg : Cfg) (b : Byte) :
    xferHi cfg b = [.ctrl false false, .data 4 (b >>> 4), .e true, .wait cfg.tPw, .e false] := by
  rw [← setWidth_hiNibble]
  rfl

/-! ### Timing -/

/-- A whole byte and its settle wait do not disturb the timing of what follows. -/
theorem wellTimed_xfer_append (cfg : Cfg) (rs : Bool) (b : Byte) (t : Nat) (rest : List Event) :
    wellTimed cfg (xfer cfg rs b ++ [.wait t] ++ rest) = wellTimed cfg rest := by
  cases h : cfg.mode with
  | eightBit => simp [xfer_of_eightBit h, wellTimed]
  | fourBit => simp [xfer_of_fourBit h, wellTimed]

/-- Rules R84 and R89: nor does any segment of the engine's own. -/
theorem Segment.wellTimed_append {cfg : Cfg} {evs : List Event} (h : Segment cfg evs) (rest : List Event) :
    wellTimed cfg (evs ++ rest) = wellTimed cfg rest := by
  induction h generalizing rest with
  | nil => rfl
  | instr b t => exact wellTimed_xfer_append cfg false b t rest
  | data b => exact wellTimed_xfer_append cfg true b cfg.tData rest
  | instrHi b t => simp [Machine.instrHi, xferHi_eq, Machine.wellTimed]
  | bl level => simp [Machine.wellTimed]
  | append _ _ hx hy => rw [List.append_assoc, hx, hy]

theorem Segment.wellTimed {cfg : Cfg} {evs : List Event} (h : Segment cfg evs) : wellTimed cfg evs = true := by
  rw [← List.append_nil evs, h.wellTimed_append]
  rfl

/-! ### The latched view -/

/-- What one thing that the sink sees does to it and to the index of its next draw: a pulse is taken, a gap is not. -/
def Seen.act (cfg : Cfg) : Sink × Nat → Seen → Sink × Nat
  | (sk, k), .pulse rs rw d => (sk.pulse cfg { rs := rs, rw := rw, e := true, d := d, bl := none } k, k + 1)
  | (sk, k), .gap _ => (sk, k)

/-- Rule R56: a pulse depends on the lines RS, RW and D alone. -/
theorem Sink.pulse_eq_of_lines (cfg : Cfg) (l : Latches) (k : Nat) (sk : Sink) :
    sk.pulse cfg l k = sk.pulse cfg { rs := l.rs, rw := l.rw, e := true, d := l.d, bl := none } k := rfl

/-- Rule R92: the sink after a segment is what the latched view makes of it. -/
theorem State.emitAll_sink_draws (s : State) (evs : List Event) :
    ((s.emitAll evs).sink, (s.emitAll evs).draws)
      = (latchedView s.cfg s.latches evs).foldl (Seen.act s.cfg) (s.sink, s.draws) := by
  induction evs generalizing s with
  | nil => rfl
  | cons ev evs ih =>
    rw [State.emitAll_cons, ih (s.emit ev)]
    cases ev with
    | e level =>
      cases level with
      | true => simp [latchedView, isFall]
      | false => cases he : s.latches.e <;> simp [latchedView, isFall, he, Seen.act, ← Sink.pulse_eq_of_lines]
    | wait n => cases he : s.latches.e <;> simp [latchedView, isFall, he, Seen.act]
    | _ => simp [latchedView, isFall]

end Sys2Proof.Machine
end

section
/-! SUPPORT. Below the Pin Interface (rules R82, R90, R166): how long a list of sleeps lasts, what a list of collaborator
calls does to one pin, and what the line writes of each event do to the pins. -/

namespace Sys2Proof.Machine

/-! ### Sleeping -/

theorem GpioCall.isSleep_iff (c : GpioCall) :
    c.isSleep = true ↔ (∃ k, c = .sleepMicroseconds k) ∨ (∃ k, c = .sleepMilliseconds k) := by
  cases c <;> simp [GpioCall.isSleep]

/-- How long one call sleeps, in nanoseconds. -/
def GpioCall.nanoseconds : GpioCall → Nat
  | .sleepMicroseconds k => 1000 * k
  | .sleepMilliseconds k => 1000000 * k
  | .configureAsOutput _ | .writeDigital _ _ => 0

theorem sum_nanoseconds (calls : List GpioCall) :
    (calls.map GpioCall.nanoseconds).sum = 1000 * sleptMicroseconds calls := by
  induction calls with
  | nil => rfl
  | cons c calls ih => cases c <;> simp [GpioCall.nanoseconds, sleptMicroseconds, ih] <;> omega

/-! ### Line writes -/

/-- A pin ends at a level that it starts at or that is written to it, if no other level is written to it. -/
theorem applyCalls_eq {levels : Levels} {calls : List GpioCall} {p : Nat} {b : Bool}
    (honly : ∀ b', GpioCall.writeDigital p b' ∈ calls → b' = b)
    (h : GpioCall.writeDigital p b ∈ calls ∨ levels p = b) : applyCalls levels calls p = b := by
  induction calls generalizing levels with
  | nil => exact h.resolve_left List.not_mem_nil
  | cons c calls ih =>
    refine ih (fun b' hb' => honly b' (.tail c hb')) (or_iff_not_imp_left.mpr fun hlater => ?_)
    cases c with
    | writeDigital pin level =>
      simp only [applyCall]
      split
      case isTrue hp => exact honly level (hp ▸ .head calls)
      case isFalse hp => simp_all
    | _ => simp_all [applyCall]

variable {levels : Levels} {writes : List (Nat × Bool)} {calls : List GpioCall} {p : Nat} {b : Bool}

/-- The calls that realise line writes write nothing else. -/
theorem writesRealise.mem_of_mem_calls (h : writesRealise levels writes calls)
    (hmem : GpioCall.writeDigital p b ∈ calls) : (p, b) ∈ writes := by
  obtain ⟨made, hperm, hsub, -⟩ := h
  obtain ⟨w, hw, heq⟩ := List.mem_map.mp (hperm.mem_iff.mp hmem)
  cases heq
  exact hsub.subset hw

/-- Rule R90: a pin that the event does not write keeps its level. -/
theorem writesRealise.level_of_unwritten (h : writesRealise levels writes calls) (hp : p ∉ writes.map Prod.fst) :
    applyCalls levels calls p = levels p :=
  applyCalls_eq (fun _ hb' => absurd (List.mem_map_of_mem (f := Prod.fst) (h.mem_of_mem_calls hb')) hp) (.inr rfl)

/-- Rule R90: a pin that the event writes has the level written, if the event writes each pin once. -/
theorem writesRealise.level_of_written (h : writesRealise levels writes calls) (hnodup : (writes.map Prod.fst).Nodup)
    (hp : (p, b) ∈ writes) : applyCalls levels calls p = b := by
  refine applyCalls_eq (fun b' hb' => ?_) ?_
  · exact congrArg Prod.snd (List.inj_on_of_nodup_map hnodup (h.mem_of_mem_calls hb') hp rfl)
  · obtain ⟨made, hperm, -, hunchanged⟩ := h
    by_cases hmade : (p, b) ∈ made
    · exact .inl (hperm.mem_iff.mpr (List.mem_map_of_mem (f := fun w => GpioCall.writeDigital w.1 w.2) hmade))
    · exact .inr (hunchanged (p, b) hp hmade)

/-- Calls that write no pin change no level. -/
theorem applyCalls_of_no_write (h : ∀ p b, GpioCall.writeDigital p b ∉ calls) : applyCalls levels calls = levels :=
  funext fun p => applyCalls_eq (fun b' hb' => absurd hb' (h p b')) (.inr rfl)

/-! ### The pins of an event -/

variable {cfg : Cfg}

@[simp] theorem map_fst_lineWrites_ctrl (rs rw : Bool) :
    (lineWrites cfg (.ctrl rs rw)).map Prod.fst = cfg.rs :: cfg.rw.toList := by
  simp [lineWrites, Function.comp_def]

@[simp] theorem map_fst_lineWrites_data (w : Nat) (v : Byte) :
    (lineWrites cfg (.data w v)).map Prod.fst = cfg.dataLines := by
  apply List.ext_getElem <;> simp [lineWrites]

@[simp] theorem map_fst_lineWrites_e (level : Bool) : (lineWrites cfg (.e level)).map Prod.fst = [cfg.e] := rfl

@[simp] theorem map_fst_lineWrites_bl (level : Bool) :
    (lineWrites cfg (.bl level)).map Prod.fst = cfg.backlightPin.toList := by
  simp [lineWrites, Function.comp_def]

/-- Rules R17 (b) and R90: an event writes each pin once. -/
theorem nodup_map_fst_lineWrites (hwf : cfg.wf = true) (ev : Event) : ((lineWrites cfg ev).map Prod.fst).Nodup := by
  obtain ⟨-, hpins, -⟩ := Cfg.wf_iff.mp hwf
  cases ev with
  | ctrl rs rw =>
    rw [map_fst_lineWrites_ctrl]
    exact hpins.of_append_left.of_append_left.of_append_left
  | data w v =>
    rw [map_fst_lineWrites_data]
    exact hpins.of_append_left.of_append_right
  | e level => exact List.nodup_singleton cfg.e
  | bl level =>
    rw [map_fst_lineWrites_bl]
    exact hpins.of_append_right
  | wait n | cfgOut line => exact List.nodup_nil

/-- Rule R17 (b): no two lines of a well-formed CFG share a pin. -/
theorem Cfg.pins_distinct (hwf : cfg.wf = true) :
    cfg.rs ≠ cfg.e ∧ cfg.rs ∉ cfg.dataLines ∧ cfg.e ∉ cfg.dataLines
    ∧ (∀ p, cfg.rw = some p → p ≠ cfg.rs ∧ p ≠ cfg.e ∧ p ∉ cfg.dataLines)
    ∧ (∀ p, cfg.backlightPin = some p → p ≠ cfg.rs ∧ p ≠ cfg.e ∧ p ∉ cfg.dataLines ∧ cfg.rw ≠ some p) := by
  obtain ⟨-, hpins, -⟩ := Cfg.wf_iff.mp hwf
  simp only [Cfg.pins, List.nodup_append, List.mem_append, List.mem_singleton, Option.mem_toList, or_imp, forall_and,
    forall_eq] at hpins
  grind

/-! ### The latches after an event

Of each event that writes lines: a line it writes has the level of its latch, and by rule R17 (b) no other line shares its
pin, so that every other line keeps the level that showed its latch before. -/

section Shows

variable {l : Latches} (hwf : cfg.wf = true) (hshows : shows cfg levels l)
include hwf hshows

theorem shows_ctrl {rs rw : Bool} (h : writesRealise levels (lineWrites cfg (.ctrl rs rw)) calls) :
    shows cfg (applyCalls levels calls) (l.apply cfg (.ctrl rs rw)) := by
  obtain ⟨hrse, hrsd, hed, hrwPin, hblPin⟩ := Cfg.pins_distinct hwf
  obtain ⟨hrs, he, hrw, hbl, hd⟩ := hshows
  have hset {p b} (hp : (p, b) ∈ lineWrites cfg (.ctrl rs rw)) : applyCalls levels calls p = b :=
    h.level_of_written (nodup_map_fst_lineWrites hwf _) hp
  have hkeep p (hp : p ≠ cfg.rs ∧ cfg.rw ≠ some p) : applyCalls levels calls p = levels p :=
    h.level_of_unwritten (by simpa using hp)
  refine ⟨hset (.head _), (hkeep _ (by grind)).trans he, fun p hp => ?_,
    fun p hp => (hkeep p (by grind)).symm ▸ hbl p hp, fun k p hp => (hkeep p (by grind)).trans (hd k p hp)⟩
  rw [hset (b := rw) (by simp [lineWrites, hp])]
  simp [Latches.apply, Cfg.hasRw, hp]

theorem shows_data {v : Byte} (h : writesRealise levels (lineWrites cfg (.data cfg.dw v)) calls) :
    shows cfg (applyCalls levels calls) (l.apply cfg (.data cfg.dw v)) := by
  obtain ⟨hrse, hrsd, hed, hrwPin, hblPin⟩ := Cfg.pins_distinct hwf
  obtain ⟨hrs, he, hrw, hbl, hd⟩ := hshows
  have hkeep p (hp : p ∉ cfg.dataLines) : applyCalls levels calls p = levels p :=
    h.level_of_unwritten (by simpa using hp)
  rw [show l.apply cfg (.data cfg.dw v) = { l with d := v } from if_pos rfl]
  refine ⟨(hkeep _ hrsd).trans hrs, (hkeep _ hed).trans he, fun p hp => (hkeep p (by grind)).symm ▸ hrw p hp,
    fun p hp => (hkeep p (by grind)).symm ▸ hbl p hp, fun k p hp => ?_⟩
  refine h.level_of_written (nodup_map_fst_lineWrites hwf _) (List.mem_mapIdx.mpr ?_)
  obtain ⟨hk, rfl⟩ := List.getElem?_eq_some_iff.mp hp
  exact ⟨k, hk, rfl⟩

theorem shows_e {level : Bool} (h : writesRealise levels (lineWrites cfg (.e level)) calls) :
    shows cfg (applyCalls levels calls) (l.apply cfg (.e level)) := by
  obtain ⟨hrse, hrsd, hed, hrwPin, hblPin⟩ := Cfg.pins_distinct hwf
  obtain ⟨hrs, he, hrw, hbl, hd⟩ := hshows
  have hkeep p (hp : p ≠ cfg.e) : applyCalls levels calls p = levels p :=
    h.level_of_unwritten (by simpa using hp)
  exact ⟨(hkeep _ hrse).trans hrs, h.level_of_written (nodup_map_fst_lineWrites hwf _) (.head _),
    fun p hp => (hkeep p (by grind)).symm ▸ hrw p hp, fun p hp => (hkeep p (by grind)).symm ▸ hbl p hp,
    fun k p hp => (hkeep p (by grind)).trans (hd k p hp)⟩

theorem shows_bl {level : Bool} (h : writesRealise levels (lineWrites cfg (.bl level)) calls) :
    shows cfg (applyCalls levels calls) (l.apply cfg (.bl level)) := by
  obtain ⟨hrse, hrsd, hed, hrwPin, hblPin⟩ := Cfg.pins_distinct hwf
  obtain ⟨hrs, he, hrw, hbl, hd⟩ := hshows
  have hkeep p (hp : cfg.backlightPin ≠ some p) : applyCalls levels calls p = levels p :=
    h.level_of_unwritten (by simpa using hp)
  refine ⟨(hkeep _ (by grind)).trans hrs, (hkeep _ (by grind)).trans he,
    fun p hp => (hkeep p (by grind)).symm ▸ hrw p hp, fun p hp => ?_,
    fun k p hp => (hkeep p (by grind)).trans (hd k p hp)⟩
  rw [h.level_of_written (b := level) (nodup_map_fst_lineWrites hwf _) (by simp [lineWrites, hp])]
  simp [Latches.apply, Cfg.hasBl, hp]

end Shows

end Sys2Proof.Machine
end

section
/-! SUPPORT. The nibble-only rows (rules R87, R114, R115): what they run as, and the place of a forced function-set in its
run of three, read off the trace (log entry 7). -/

namespace Sys2Proof.Machine

variable {s : State} {i : Instr} {cfg : Cfg}

/-- Rule R87: in 4-bit mode a nibble-only row emits its events and leaves the rest of the engine alone. -/
theorem exec_nibble_of_fourBit (hi : i = .force8Nibble ∨ i = .narrow4Nibble) (hmode : s.cfg.mode = .fourBit) :
    ∃ t, exec i s = .next t ∧ s.Ran t (eventsOf i s) ∧ t.ctl = s.ctl ∧ t.initState = s.initState
      ∧ t.status = s.status := by
  have hrun : exec i s = .next ((s.accept i).emitAll (eventsOf i s)).idle := by
    rw [exec_eq]
    rcases hi with rfl | rfl <;> simp [refusalOf, onlyFourBit, hmode, checkOf, entryOf, commitOf]
  exact ⟨_, hrun, s.ran_idle i _, by simp, by simp, by simp⟩

/-- Rule R87: in 8-bit mode it is refused (log entry 8). -/
theorem exec_nibble_of_eightBit (hi : i = .force8Nibble ∨ i = .narrow4Nibble) (hmode : s.cfg.mode = .eightBit) :
    exec i s = .refused .nibbleInEightBitMode := by
  rw [exec_eq]
  rcases hi with rfl | rfl <;> simp [refusalOf, onlyFourBit, hmode]

/-! ### The place of a forced function-set -/

theorem forcedWait_cases (cfg : Cfg) (trace : List Event) :
    forcedWait cfg trace = cfg.tReset1 ∨ forcedWait cfg trace = cfg.tReset2 ∨ forcedWait cfg trace = cfg.tReset3 := by
  unfold forcedWait
  split <;> simp

theorem State.traceAtAcceptance_of_seq_zero (h : s.seq = 0) : s.traceAtAcceptance = s.trace := by
  simp [State.traceAtAcceptance, h]

/-- In 4-bit mode a forced function-set that ends the trace is the high nibble of FORCE8 and any settle wait. -/
theorem instrHi_force8Byte (hmode : cfg.mode = .fourBit) (t : Nat) :
    instrHi cfg (force8Byte cfg) t
      = [.ctrl false false, .data cfg.dw (forcedPattern cfg), .e true, .wait cfg.tPw, .e false, .wait t] := by
  rw [Cfg.dw, forcedPattern, hmode]
  rfl

theorem forcedRun_append (hmode : cfg.mode = .fourBit) (trace : List Event) (t : Nat) :
    forcedRun cfg (trace ++ instrHi cfg (force8Byte cfg) t).reverse = forcedRun cfg trace.reverse + 1 := by
  simp [instrHi_force8Byte hmode, forcedRun]

theorem forcedRun_eq_zero (hmode : cfg.mode = .fourBit) {trace : List Event}
    (h : ∀ t, ¬ instrHi cfg (force8Byte cfg) t <:+ trace) : forcedRun cfg trace.reverse = 0 := by
  rw [forcedRun.eq_def]
  split
  next t p w v rest heq =>
    refine if_neg fun ⟨hp, hw, hv⟩ => h t ⟨rest.reverse, ?_⟩
    rw [← List.reverse_inj, heq, instrHi_force8Byte hmode, hp, hw, hv]
    simp
  next => rfl

/-- Rule R114: a forced function-set run alone takes the wait of its place, and is one more in the run (log entry 7). -/
theorem exec_force8Nibble (hmode : s.cfg.mode = .fourBit) (hseq : s.seq = 0) :
    ∃ t, exec .force8Nibble s = .next t ∧ t.cfg = s.cfg ∧ t.seq = 0
      ∧ t.trace = s.trace ++ forcedEvents s.cfg (forcedWait s.cfg s.trace)
      ∧ forcedRun s.cfg t.trace.reverse = forcedRun s.cfg s.trace.reverse + 1 := by
  obtain ⟨t, ht, hran, -⟩ := exec_nibble_of_fourBit (.inl rfl) hmode
  have htrace : t.trace = s.trace ++ instrHi s.cfg (force8Byte s.cfg) (forcedWait s.cfg s.trace) := by
    rw [hran.trace, eventsOf, force8NibbleEvents, State.traceAtAcceptance_of_seq_zero hseq]
  refine ⟨t, ht, hran.cfg, hran.seq, ?_, ?_⟩
  · rw [htrace, forcedEvents, hmode]
  · rw [htrace, forcedRun_append hmode]

/-- Rule R114: three forced function-sets in a row, none before them, are step 1 of init (log entry 7). -/
theorem exec_force8Nibble_three (hmode : s.cfg.mode = .fourBit) (hseq : s.seq = 0)
    (hrun : forcedRun s.cfg s.trace.reverse = 0) :
    ∃ t u v, exec .force8Nibble s = .next t ∧ exec .force8Nibble t = .next u ∧ exec .force8Nibble u = .next v
      ∧ v.trace = s.trace ++ initStep1 s.cfg := by
  obtain ⟨t, ht, htcfg, htseq, httrace, htrun⟩ := exec_force8Nibble hmode hseq
  obtain ⟨u, hu, hucfg, huseq, hutrace, hurun⟩ := exec_force8Nibble (htcfg.symm ▸ hmode) htseq
  obtain ⟨v, hv, -, -, hvtrace, -⟩ := exec_force8Nibble (hucfg.symm ▸ htcfg.symm ▸ hmode) huseq
  refine ⟨t, u, v, ht, hu, hv, ?_⟩
  simp only [hucfg, htcfg] at hvtrace hutrace hurun
  have hwait1 : forcedWait s.cfg s.trace = s.cfg.tReset1 := by simp [forcedWait, hrun]
  have hwait2 : forcedWait s.cfg t.trace = s.cfg.tReset2 := by simp [forcedWait, htrun, hrun]
  have hwait3 : forcedWait s.cfg u.trace = s.cfg.tReset3 := by simp [forcedWait, hurun, htrun, hrun]
  rw [hvtrace, hwait3, hutrace, hwait2, httrace, hwait1, initStep1]
  simp only [List.append_assoc]

end Sys2Proof.Machine
end

section
/-! SUPPORT. The statements of the family 40_pin_interface settled: the engine's transfers, what the display takes of them,
and the collaborator's calls below the pins. -/

namespace Sys2Proof.Machine

/-- Settles O15: an instruction's events are a segment of whole transfers; a failed one appends nothing. -/
theorem emittedEventsAreWellTimed : Obligations.EmittedEventsAreWellTimed := by
  unfold Obligations.EmittedEventsAreWellTimed
  intro i s t h
  rcases exec_cases h with ⟨-, -, rfl⟩ | ⟨-, rfl⟩
  · exact ⟨_, (s.ran_commitOf i _).trace, (eventsOf_segment i s).wellTimed⟩
  · exact ⟨[], (List.append_nil _).symm, rfl⟩

/-- Settles O17: the sink is a function of the latched view. -/
theorem latchedViewDecidesSink : Obligations.LatchedViewDecidesSink := by
  unfold Obligations.LatchedViewDecidesSink
  intro s xs ys h
  have hview : ((s.emitAll xs).sink, (s.emitAll xs).draws) = ((s.emitAll ys).sink, (s.emitAll ys).draws) := by
    rw [s.emitAll_sink_draws xs, s.emitAll_sink_draws ys, h]
  exact congrArg Prod.fst hview

/-- Settles O13, mode by mode. -/
theorem byteTransferEvents : Obligations.ByteTransferEvents := by
  unfold Obligations.ByteTransferEvents
  exact fun cfg rs b t =>
    ⟨fun h => xfer_of_eightBit h rs b, fun h => xfer_of_fourBit h rs b, xferHi_eq cfg b, rfl, rfl, rfl⟩

/-- Settles O59: sleeps last as long together as their durations' sum. -/
theorem waitIsAnySleepsLongEnough : Obligations.WaitIsAnySleepsLongEnough := by
  unfold Obligations.WaitIsAnySleepsLongEnough
  intro cfg levels n calls
  refine and_congr (forall₂_congr fun c _ => c.isSleep_iff) ?_
  rw [← sum_nanoseconds]
  exact Iff.rfl

/-- Settles O19: the reference rounds up to the next whole microsecond. -/
theorem referenceSleepIsLongEnough : Obligations.ReferenceSleepIsLongEnough := by
  unfold Obligations.ReferenceSleepIsLongEnough
  refine ⟨fun n => ?_, rfl, rfl, rfl, rfl, rfl⟩
  unfold referenceSleep
  omega

/-- Settles O18, event by event: a line of the event gets its latch's new level, every other line keeps its own. -/
theorem anyLineWriteOrderShowsLatches : Obligations.AnyLineWriteOrderShowsLatches := by
  unfold Obligations.AnyLineWriteOrderShowsLatches
  intro cfg levels l ev calls hwf hshows hwidth h
  cases ev with
  | ctrl rs rw => exact shows_ctrl hwf hshows h
  | data w v =>
    obtain rfl := hwidth w v rfl
    exact shows_data hwf hshows h
  | e level => exact shows_e hwf hshows h
  | bl level => exact shows_bl hwf hshows h
  | wait n =>
    obtain ⟨hsleeps, -⟩ := h
    rw [applyCalls_of_no_write fun p b hmem => nomatch hsleeps _ hmem]
    exact hshows
  | cfgOut line =>
    obtain rfl : calls = (line.pin cfg).toList.map GpioCall.configureAsOutput := h
    rw [applyCalls_of_no_write (by simp)]
    exact hshows

/-- Settles O42: in 4-bit mode each row emits its one pulse, and a forced one the wait of its place in the run. -/
theorem nibbleTransferResults : Obligations.NibbleTransferResults := by
  unfold Obligations.NibbleTransferResults
  refine fun s => ⟨fun hmode => ⟨exec_nibble_of_fourBit (.inr rfl) hmode, ?_, fun hseq htrace => ?_⟩,
    fun hmode => ⟨exec_nibble_of_eightBit (.inr rfl) hmode, exec_nibble_of_eightBit (.inl rfl) hmode⟩⟩
  · obtain ⟨t, ht, hran, hframe⟩ := exec_nibble_of_fourBit (.inl rfl) hmode
    exact ⟨t, _, ht, hran, forcedWait_cases s.cfg s.traceAtAcceptance, hframe⟩
  · refine exec_force8Nibble_three hmode hseq (forcedRun_eq_zero hmode fun t hsuffix => ?_)
    rw [← List.isSuffixOf_iff_suffix] at hsuffix
    exact absurd hsuffix (Bool.eq_false_iff.mp (htrace t))

end Sys2Proof.Machine
end

section
/-! SUPPORT. The instruction bytes as numbers at the default base bytes (rules R96 to R104): the fields of each lie in bits
that its base leaves free, so that they add up. -/

namespace Sys2Proof.Machine

variable {cfg : Cfg}

/-- Rule R99. -/
theorem toNat_entryByte (h : cfg.opcEntry = 0x04) (i sh : Bool) :
    (entryByte cfg i sh).toNat = 0x04 + 2 * i.toNat + sh.toNat := by
  rw [entryByte, h]
  revert i sh
  decide

/-- Rule R100. -/
theorem toNat_displayByte (h : cfg.opcDisplay = 0x08) (d c b : Bool) :
    (displayByte cfg d c b).toNat = 0x08 + 4 * d.toNat + 2 * c.toNat + b.toNat := by
  rw [displayByte, h]
  revert d c b
  decide

/-- Rule R101. -/
theorem toNat_shiftByte (h : cfg.opcShift = 0x10) (sc rl : Bool) :
    (shiftByte cfg sc rl).toNat = 0x10 + 8 * sc.toNat + 4 * rl.toNat := by
  rw [shiftByte, h]
  revert sc rl
  decide

/-- Rule R102. -/
theorem toNat_functionByte (h : cfg.opcFunction = 0x20) (l n f : Bool) :
    (functionByte cfg l n f).toNat = 0x20 + 16 * l.toNat + 8 * n.toNat + 4 * f.toNat := by
  rw [functionByte, h]
  revert l n f
  decide

/-- Rule R103. -/
theorem toNat_cgramByte (h : cfg.opcCgram = 0x40) (a : BitVec 6) : (cgramByte cfg a).toNat = 0x40 + a.toNat := by
  rw [cgramByte, h]
  revert a
  decide

/-- Rule R102 (c): FINAL by the number of data lines, the number of rows and the font. -/
theorem toNat_finalByte (h : cfg.opcFunction = 0x20) :
    (finalByte cfg).toNat =
      0x20 + (if cfg.dataLines.length = 4 then 0 else 0x10) + (if 2 ≤ cfg.rows then 0x08 else 0)
        + (if cfg.font5x10 then 0x04 else 0) := by
  have hwide : (decide (cfg.mode = .eightBit)).toNat = if cfg.dataLines.length = 4 then 0 else 1 := by
    unfold Cfg.mode
    split <;> rfl
  have hlines : (decide (2 ≤ cfg.rows)).toNat = if 2 ≤ cfg.rows then 1 else 0 := by
    split <;> simp_all
  rw [finalByte, toNat_functionByte h, hwide, hlines, Bool.toNat, Bool.cond_eq_ite]
  simp only [mul_ite, mul_one, mul_zero]

/-- Rule R48: the slots start at the multiples of 8. -/
theorem toNat_cgramAddr {slot : Int} (hslot : 0 ≤ slot) (hslot' : slot ≤ 7) :
    (cgramAddr slot).toNat = 8 * slot.toNat := by
  rw [cgramAddr, BitVec.toNat_ofInt]
  omega

end Sys2Proof.Machine
end

section
/-! SUPPORT. The rows of the transfer words run alone (rules R97 to R107): one that the engine makes emits its events and
leaves the rest of the engine alone, one outside the inventory is refused. -/

namespace Sys2Proof.Machine

variable {s : State} {i : Instr}

/-- Rule R72: the refusal of a transfer is what exec answers. -/
theorem exec_of_refusal {r : Refusal} (h : refusalOf i s.cfg = some r) : exec i s = .refused r := by
  rw [exec_eq, h]

/-- A row that is not refused emits its events and writes nothing but the latches and the trace (log entry 6). -/
theorem exec_of_row (hrow : i.isOperation = false) (hform : refusalOf i s.cfg = none) :
    ∃ t, exec i s = .next t ∧ s.Ran t (eventsOf i s) ∧ t.ctl = s.ctl ∧ t.initState = s.initState
      ∧ t.status = s.status := by
  have hne : i ≠ .init := by rintro rfl; cases hrow
  have hrun : exec i s = .next ((s.accept i).emitAll (eventsOf i s)).idle := by
    rw [exec_eq, hform, checkOf_of_not_isOperation s hrow, commitOf_of_not_isOperation _ hrow, entryOf_of_ne_init s hne]
    rfl
  exact ⟨_, hrun, s.ran_idle i _, by simp, by simp, by simp⟩

/-! ### What is inside the inventory -/

theorem onlyIf_of_true {emitted : Bool} (h : emitted = true) : onlyIf emitted = none := if_pos h

theorem onlyIf_of_not {emitted : Bool} (h : ¬ emitted = true) : onlyIf emitted = some .neverEmitted := if_neg h

variable {cfg : Cfg}

theorem isFinal_iff {l n f : Bool} :
    isFinal l n f cfg = true ↔ l = decide (cfg.mode = .eightBit) ∧ n = decide (2 ≤ cfg.rows) ∧ f = cfg.font5x10 := by
  simp only [isFinal, Bool.and_eq_true, beq_iff_eq, and_assoc]

theorem isForce8_iff {l n f : Bool} :
    isForce8 l n f cfg = true ↔ cfg.mode = .eightBit ∧ l = true ∧ n = false ∧ f = false := by
  simp only [isForce8, Bool.and_eq_true, decide_eq_true_eq, Bool.not_eq_true', and_assoc]

/-- Rule R72: the address of a cell is the base of a row plus a column. -/
theorem isCellAddress_iff {a : Nat} :
    isCellAddress cfg a = true ↔ ∃ base ∈ cfg.rowBase, ∃ c : Nat, (c : Int) < cfg.cols ∧ base + c = a := by
  simp only [isCellAddress, List.any_eq_true, Bool.and_eq_true, decide_eq_true_eq]
  refine exists_congr fun base => and_congr_right fun _ => ⟨fun ⟨hle, hlt⟩ => ⟨a - base, by omega, by omega⟩, ?_⟩
  rintro ⟨c, hc, rfl⟩
  exact ⟨by omega, by omega⟩

end Sys2Proof.Machine
end

section
/-! SUPPORT. The closed inventory of the instruction bytes (rule R107): what an operation sends beside data, in the engine's
own builders, and what those sends are at the default base bytes. -/

namespace Sys2Proof.Machine

/-- Rules R106 and R107: the whole instruction bytes that operations send, outside the forced and narrowing sends of init,
each with its settle wait. -/
inductive Sends (cfg : Cfg) : Byte → Nat → Prop where
  | clear : Sends cfg (clearByte cfg) cfg.tLong
  | home : Sends cfg (homeByte cfg) cfg.tHome
  | entry : Sends cfg (entryByte cfg true false) cfg.tShort
  | display (d c b : Bool) : Sends cfg (displayByte cfg d c b) cfg.tShort
  | shift (r : Bool) : Sends cfg (shiftByte cfg true r) cfg.tShort
  | final : Sends cfg (finalByte cfg) cfg.tShort
  | slot {slot : Int} : 0 ≤ slot → slot ≤ 7 → Sends cfg (cgramByte cfg (cgramAddr slot)) cfg.tShort
  | cell {c r : Int} : checkCoord cfg c r = .ok → Sends cfg (ddramByte cfg (cfg.ddramAddr c r)) cfg.tShort

/-- A segment of data transfers and sends of the inventory. -/
inductive Inventoried (cfg : Cfg) : List Event → Prop where
  | nil : Inventoried cfg []
  | instr {b : Byte} {t : Nat} : Sends cfg b t → Inventoried cfg (instr cfg b t)
  | data (b : Byte) : Inventoried cfg (data cfg b)
  | append {xs ys : List Event} : Inventoried cfg xs → Inventoried cfg ys → Inventoried cfg (xs ++ ys)

variable {cfg : Cfg}

theorem Inventoried.dataAll (bytes : List Byte) : Inventoried cfg (dataAll cfg bytes) := by
  induction bytes with
  | nil => exact .nil
  | cons b bytes ih => exact (Inventoried.data b).append ih

theorem Inventoried.initSteps3And4 : Inventoried cfg (initStep3 cfg ++ initStep4 cfg) :=
  have step4 : Inventoried cfg (initStep4 cfg) :=
    (((instr (.display _ _ _)).append (instr .clear)).append (instr .entry)).append (instr (.display _ _ _))
  (instr .final).append step4

/-! ### What the operations send -/

variable {s : State}

theorem State.gate_eq_ok {rest : Status} (h : s.gate rest = .ok) : rest = .ok := by
  unfold State.gate at h
  split at h
  · exact h
  · cases h

theorem slot_of_checkChar {slot : Int} {pattern : List Byte} (h : checkChar slot pattern = .ok) :
    0 ≤ slot ∧ slot ≤ 7 := by
  unfold checkChar at h
  split at h
  · cases h
  · simp_all

/-- Rule R34 (d): the cached coordinate of a good idle engine is a cell. -/
theorem State.IdleInv.checkCoord_cached (h : s.IdleInv) : checkCoord s.cfg s.col s.row = .ok :=
  checkCoord_eq_ok.mpr ⟨Int.natCast_nonneg _, h.col, Int.natCast_nonneg _, h.row⟩

/-- Rule R107: an operation that passes its check sends the inventory only, init after its forced and narrowing sends. -/
theorem eventsOf_inventoried {i : Instr} (h : s.IdleInv) (hop : i.isOperation = true) (hbl : ∀ v, i ≠ .backlight v)
    (hcheck : checkOf i s = .ok) :
    ∃ evs, eventsOf i s = (if i = .init then initStep1 s.cfg ++ initStep2 s.cfg else []) ++ evs
      ∧ Inventoried s.cfg evs := by
  cases i with
  | init => exact ⟨_, by simp [eventsOf, initEvents], .initSteps3And4⟩
  | clear => exact ⟨_, rfl, .instr .clear⟩
  | home => exact ⟨_, rfl, .instr .home⟩
  | position c r => exact ⟨_, rfl, .instr (.cell (State.gate_eq_ok hcheck))⟩
  | write text col row => exact ⟨_, rfl, (Inventoried.instr (.cell (State.gate_eq_ok hcheck))).append (.dataAll _)⟩
  | writeChar code => exact ⟨_, rfl, .data code⟩
  | displayOnOff _ | cursor _ _ => exact ⟨_, rfl, .instr (.display _ _ _)⟩
  | backlight v => exact absurd rfl (hbl v)
  | createChar slot pattern =>
    obtain ⟨hslot, hslot'⟩ := slot_of_checkChar (State.gate_eq_ok hcheck)
    exact ⟨_, rfl, ((Inventoried.instr (.slot hslot hslot')).append (.dataAll _)).append
      (.instr (.cell h.checkCoord_cached))⟩
  | displayShift direction => exact ⟨_, rfl, .instr (.shift _)⟩
  | _ => cases hop

/-! ### The inventory at the default base bytes -/

/-- Rule R106: the settle class of a byte. -/
def settleClass (cfg : Cfg) (b : Byte) : Nat :=
  if b = 0x01 then cfg.tLong else if b = 0x02 then cfg.tHome else cfg.tShort

/-- Rule R88: a transfer of a data byte, or of an instruction byte with the wait of its class. -/
def transferOf (cfg : Cfg) (x : Bool × Byte) : List Event :=
  if x.1 then data cfg x.2 else instr cfg x.2 (settleClass cfg x.2)

/-- Rule R107: the closed inventory, as numbers. -/
def InInventory (cfg : Cfg) (b : Byte) : Prop :=
  b = 0x01 ∨ b = 0x02 ∨ b = 0x06 ∨ (0x08 ≤ b.toNat ∧ b.toNat ≤ 0x0F) ∨ b = 0x18 ∨ b = 0x1C
  ∨ b.toNat = 0x20 + (if cfg.dataLines.length = 4 then 0 else 0x10) + (if 2 ≤ cfg.rows then 0x08 else 0)
      + (if cfg.font5x10 then 0x04 else 0)
  ∨ (∃ slot, slot < 8 ∧ b.toNat = 0x40 + 8 * slot)
  ∨ (∃ (c r : Nat) (base : Nat), (c : Int) < cfg.cols ∧ cfg.rowBase[r]? = some base ∧ b.toNat = 0x80 + base + c)

/-- Every byte but those of clear and home is above them. -/
theorem settleClass_of_two_lt {b : Byte} (h : 2 < b.toNat) : settleClass cfg b = cfg.tShort := by
  rw [settleClass, if_neg, if_neg]
  · rintro rfl; revert h; decide
  · rintro rfl; revert h; decide

/-- Rule R104: the byte of a cell is 0x80, the base of its row and its column. -/
theorem toNat_ddramByte_cell (hopc : cfg.opcDdram = 0x80) (hwf : cfg.wf = true) {c r : Int}
    (hcell : checkCoord cfg c r = .ok) :
    ∃ base, cfg.rowBase[r.toNat]? = some base ∧ (ddramByte cfg (cfg.ddramAddr c r)).toNat = 0x80 + base + c.toNat := by
  obtain ⟨hc, hc', hr, hr'⟩ := checkCoord_eq_ok.mp hcell
  obtain ⟨base, hbase, hfits⟩ := Cfg.rowBase_of_wf hwf hr hr'
  have haddr := Cfg.toNat_ddramAddr hbase hc (by omega)
  refine ⟨base, hbase, ?_⟩
  rw [toNat_ddramByte hopc]
  omega

/-- Rules R106 and R107: a send of the inventory is, at the default base bytes, one of its numbers with its class. -/
theorem Sends.inInventory (hstd : cfg.standardBytes = true) (hwf : cfg.wf = true) {b : Byte} {t : Nat}
    (h : Sends cfg b t) : InInventory cfg b ∧ t = settleClass cfg b := by
  obtain ⟨hclear, hhome, hentry, hdisplay, hshift, hfunction, hcgram, hddram⟩ := Cfg.standardBytes_iff.mp hstd
  unfold InInventory
  cases h with
  | clear => rw [clearByte, hclear]; exact ⟨.inl rfl, rfl⟩
  | home => rw [homeByte, hhome]; exact ⟨.inr (.inl rfl), rfl⟩
  | entry =>
    have hbyte : entryByte cfg true false = 0x06 := BitVec.eq_of_toNat_eq (toNat_entryByte hentry true false)
    rw [hbyte]
    exact ⟨.inr (.inr (.inl rfl)), rfl⟩
  | display d c b =>
    have hbyte := toNat_displayByte hdisplay d c b
    have := d.toNat_le
    have := c.toNat_le
    have := b.toNat_le
    have hrange : 0x08 ≤ (displayByte cfg d c b).toNat ∧ (displayByte cfg d c b).toNat ≤ 0x0F := by omega
    exact ⟨by simp only [hrange, and_self, true_or, or_true], (settleClass_of_two_lt (by omega)).symm⟩
  | shift r =>
    have hbyte : shiftByte cfg true r = if r then 0x1C else 0x18 :=
      BitVec.eq_of_toNat_eq ((toNat_shiftByte hshift true r).trans (by cases r <;> rfl))
    rw [hbyte]
    cases r
    · exact ⟨by simp, rfl⟩
    · exact ⟨by simp, rfl⟩
  | final =>
    have hbyte := toNat_finalByte hfunction
    exact ⟨by simp only [hbyte, true_or, or_true], (settleClass_of_two_lt (by omega)).symm⟩
  | @slot slot hslot hslot' =>
    have hbyte := toNat_cgramByte hcgram (cgramAddr slot)
    rw [toNat_cgramAddr hslot hslot'] at hbyte
    have hstart : ∃ k, k < 8 ∧ (cgramByte cfg (cgramAddr slot)).toNat = 0x40 + 8 * k := ⟨slot.toNat, by omega, hbyte⟩
    exact ⟨by simp only [hstart, true_or, or_true], (settleClass_of_two_lt (by omega)).symm⟩
  | @cell c r hcell =>
    obtain ⟨base, hbase, hbyte⟩ := toNat_ddramByte_cell hddram hwf hcell
    obtain ⟨hc, hc', -⟩ := checkCoord_eq_ok.mp hcell
    have haddress : ∃ (c' r' base : Nat), (c' : Int) < cfg.cols ∧ cfg.rowBase[r']? = some base
        ∧ (ddramByte cfg (cfg.ddramAddr c r)).toNat = 0x80 + base + c' :=
      ⟨c.toNat, r.toNat, base, by omega, hbase, hbyte⟩
    exact ⟨by simp only [haddress, or_true], (settleClass_of_two_lt (by omega)).symm⟩

/-- An inventoried segment is the transfers of a list of data bytes and of bytes of the inventory. -/
theorem Inventoried.transfers (hstd : cfg.standardBytes = true) (hwf : cfg.wf = true) {evs : List Event}
    (h : Inventoried cfg evs) :
    ∃ xs : List (Bool × Byte), evs = (xs.map (transferOf cfg)).flatten ∧ ∀ b, (false, b) ∈ xs → InInventory cfg b := by
  induction h with
  | nil => exact ⟨[], rfl, nofun⟩
  | @instr b t hsends =>
    obtain ⟨hbyte, rfl⟩ := hsends.inInventory hstd hwf
    exact ⟨[(false, b)], by simp [transferOf], by simpa using hbyte⟩
  | data b => exact ⟨[(true, b)], by simp [transferOf], by simp⟩
  | append _ _ hxs hys =>
    obtain ⟨xs, rfl, hxs⟩ := hxs
    obtain ⟨ys, rfl, hys⟩ := hys
    refine ⟨xs ++ ys, by simp, fun b hb => ?_⟩
    rcases List.mem_append.mp hb with hb | hb
    · exact hxs b hb
    · exact hys b hb

end Sys2Proof.Machine
end

section
/-! SUPPORT. The statements of the family 41_instruction_bytes settled: the bytes, the rows of the transfer words run alone,
and the closed inventory. -/

namespace Sys2Proof.Machine

/-- Settles O36: the operation's events are inventoried, and at the default base bytes the inventory is the listed one; a
failed operation sends nothing. -/
theorem instructionBytesAreInventoried : Obligations.InstructionBytesAreInventoried := by
  unfold Obligations.InstructionBytesAreInventoried
  intro i s t hop hbl hinv hstd hrun
  rcases exec_cases hrun with ⟨hcheck, -, rfl⟩ | ⟨herror, rfl⟩
  · obtain ⟨evs, hevents, hinventoried⟩ := eventsOf_inventoried hinv hop hbl hcheck
    obtain ⟨xs, rfl, hbytes⟩ := hinventoried.transfers hstd hinv.cfg
    refine ⟨xs, ?_, hbytes⟩
    rw [(s.ran_commitOf i _).trace, hevents, List.append_assoc]
    rfl
  · have hne : i ≠ .init := by rintro rfl; exact herror rfl
    exact ⟨[], by simp [hne], nofun⟩

/-- Settles O14, byte by byte. -/
theorem instructionBytesAtDefaults : Obligations.InstructionBytesAtDefaults := by
  unfold Obligations.InstructionBytesAtDefaults
  intro cfg hstd
  obtain ⟨hclear, hhome, hentry, hdisplay, hshift, hfunction, hcgram, hddram⟩ := Cfg.standardBytes_iff.mp hstd
  exact ⟨hclear, hhome, toNat_entryByte hentry, toNat_displayByte hdisplay, toNat_shiftByte hshift,
    toNat_functionByte hfunction, toNat_cgramByte hcgram, toNat_ddramByte hddram⟩

/-- Settles O41, row by row: what the refusal of each row says of its operands decides between its two outcomes. -/
theorem transferResults : Obligations.TransferResults := by
  unfold Obligations.TransferResults
  intro s emits final
  have hfunctionSet {l n f : Bool} (h : isFinal l n f s.cfg = true ∨ isForce8 l n f s.cfg = true) :
      emits (.functionSet l n f) (functionSetEvents l n f s) :=
    exec_of_row rfl (onlyIf_of_true (Bool.or_eq_true_iff.mpr h))
  refine ⟨exec_of_row rfl rfl, exec_of_row rfl rfl, exec_of_row rfl rfl,
    fun i sh h => exec_of_refusal (onlyIf_of_not (by simpa using h)), fun d c b => exec_of_row rfl rfl,
    fun rl => exec_of_row rfl rfl, fun rl => exec_of_refusal rfl, fun l n f h => ?_, fun hmode h => ?_,
    fun l n f h h' => ?_, fun slot hslot => ?_, fun a ha => ?_, fun r c base hbase hc hfits => ?_, fun a ha => ?_,
    fun b => exec_of_row rfl rfl⟩
  · have hfinal := isFinal_iff.mpr h
    have := hfunctionSet (.inl hfinal)
    rwa [functionSetEvents, if_pos hfinal] at this
  · refine ⟨_, forcedWait_cases s.cfg s.traceAtAcceptance, ?_⟩
    have := hfunctionSet (.inr (isForce8_iff.mpr ⟨hmode, rfl, rfl, rfl⟩))
    rwa [functionSetEvents, if_neg (mt isFinal_iff.mp h)] at this
  · refine exec_of_refusal (onlyIf_of_not fun hemitted => ?_)
    rcases Bool.or_eq_true_iff.mp hemitted with hemitted | hemitted
    · exact h (isFinal_iff.mp hemitted)
    · exact h' (isForce8_iff.mp hemitted)
  · refine exec_of_row rfl (onlyIf_of_true (decide_eq_true ?_))
    rw [BitVec.toNat_ofNat]
    omega
  · exact exec_of_refusal (onlyIf_of_not (by simpa using ha))
  · refine exec_of_row rfl (onlyIf_of_true (isCellAddress_iff.mpr ⟨base, List.mem_of_getElem? hbase, c, hc, ?_⟩))
    rw [BitVec.toNat_ofNat]
    omega
  · refine exec_of_refusal (onlyIf_of_not fun hcell => ?_)
    obtain ⟨base, hbase, c, hc, e⟩ := isCellAddress_iff.mp hcell
    exact ha base hbase c hc e

end Sys2Proof.Machine
end

section
/-! SUPPORT. The operation init (rules R111 to R121): what a completed init leaves, how large its sequence is, and where
INIT_STATE stands at each of its micro-steps. -/

namespace Sys2Proof.Machine

/-! ### A completed init -/

/-- Rule R120: the Controller State of a completed init, which keeps `backlight_on`. -/
def Controller.afterInit (backlightOn : Bool) : Controller where
  initialized := true
  displayOn := true
  cursorVisible := false
  cursorBlink := false
  backlightOn := backlightOn
  entryIncrement := true
  entryShift := false
  currentCol := 0
  currentRow := 0

/-- Rules R118, R120, R122: `t` is `s` after a completed init. -/
structure State.InitDone (s t : State) : Prop where
  ran : s.Ran t (initEvents s.cfg)
  initState : t.initState = .ready
  status : t.status = .ok
  ctl : t.ctl = Controller.afterInit s.ctl.backlightOn

theorem exec_init_done {s t : State} (h : exec .init s = .next t) : s.InitDone t := by
  rcases exec_cases h with ⟨-, -, rfl⟩ | ⟨herror, -⟩
  · exact ⟨s.ran_commitOf .init _, commitOf_emitAll_initState s .init _, commitOf_emitAll_status s .init _,
      commitOf_emitAll_ctl s .init _⟩
  · exact absurd rfl herror

/-- Rule R122: init has no check to fail. -/
theorem exec_init_next (s : State) : ∃ t, exec .init s = .next t ∧ s.InitDone t := by
  obtain ⟨t, h⟩ := exec_next_of_form s (i := .init) rfl
  exact ⟨t, h, exec_init_done h⟩

/-! ### The sequence in each mode -/

section Modes

variable {cfg : Cfg}

theorem initStep1_of_eightBit (h : cfg.mode = .eightBit) :
    initStep1 cfg =
      instr cfg (force8Byte cfg) cfg.tReset1 ++ instr cfg (force8Byte cfg) cfg.tReset2
      ++ instr cfg (force8Byte cfg) cfg.tReset3 := by
  simp only [initStep1, forcedEvents, h]

theorem initStep1_of_fourBit (h : cfg.mode = .fourBit) :
    initStep1 cfg =
      instrHi cfg (force8Byte cfg) cfg.tReset1 ++ instrHi cfg (force8Byte cfg) cfg.tReset2
      ++ instrHi cfg (force8Byte cfg) cfg.tReset3 := by
  simp only [initStep1, forcedEvents, h]

theorem initStep2_of_eightBit (h : cfg.mode = .eightBit) : initStep2 cfg = [] := by
  simp only [initStep2, h]

theorem initStep2_of_fourBit (h : cfg.mode = .fourBit) :
    initStep2 cfg = instrHi cfg (narrow4Byte cfg) cfg.tShort := by
  simp only [initStep2, h]

/-- Rule R102 (c): FINAL announces the engine's own width. -/
theorem finalByte_of_eightBit (h : cfg.mode = .eightBit) :
    finalByte cfg = functionByte cfg true (decide (2 ≤ cfg.rows)) cfg.font5x10 := by
  simp [finalByte, h]

theorem finalByte_of_fourBit (h : cfg.mode = .fourBit) :
    finalByte cfg = functionByte cfg false (decide (2 ≤ cfg.rows)) cfg.font5x10 := by
  simp [finalByte, h]

end Modes

/-! ### The size of the sequence -/

/-- Whether the event is a wait, of a pulse or of a settle class. -/
def Event.isWait : Event → Bool
  | .wait _ => true
  | .cfgOut _ | .ctrl _ _ | .data _ _ | .e _ | .bl _ => false

/-- What rule R118 counts of a segment: its events, its enable pulses, its waits and their sum. -/
structure Tally (evs : List Event) (events pulseCount waits time : Nat) : Prop where
  events : evs.length = events
  pulses : pulses evs = pulseCount
  waits : evs.countP Event.isWait = waits
  time : waitTotal evs = time

/-- The waits counted through any other test for a wait. -/
theorem Tally.countP_waits {evs : List Event} {n p w t : Nat} (h : Tally evs n p w t) {test : Event → Bool}
    (htest : ∀ ev, test ev = ev.isWait) : evs.countP test = w := by
  rw [funext htest, h.waits]

theorem waitTotal_append (xs ys : List Event) : waitTotal (xs ++ ys) = waitTotal xs + waitTotal ys := by
  induction xs with
  | nil => simp [waitTotal]
  | cons ev xs ih => cases ev <;> simp [waitTotal, ih, Nat.add_assoc]

theorem Tally.append {xs ys : List Event} {n p w t n' p' w' t' : Nat} (hx : Tally xs n p w t)
    (hy : Tally ys n' p' w' t') : Tally (xs ++ ys) (n + n') (p + p') (w + w') (t + t') where
  events := by rw [List.length_append, hx.events, hy.events]
  pulses := by rw [Machine.pulses, List.countP_append]; exact congrArg₂ _ hx.pulses hy.pulses
  waits := by rw [List.countP_append, hx.waits, hy.waits]
  time := by rw [waitTotal_append, hx.time, hy.time]

section Size

variable {cfg : Cfg}

/-- A nibble transfer and its settle wait. -/
theorem Tally.instrHi (b : Byte) (t : Nat) : Tally (instrHi cfg b t) 6 1 2 (cfg.tPw + t) := by
  rw [Machine.instrHi, xferHi_eq]
  exact ⟨rfl, rfl, rfl, rfl⟩

/-- A byte transfer and its settle wait, one pulse in 8-bit mode. -/
theorem Tally.instr_of_eightBit (h : cfg.mode = .eightBit) (b : Byte) (t : Nat) :
    Tally (instr cfg b t) 6 1 2 (cfg.tPw + t) := by
  rw [instr, xfer_of_eightBit h]
  exact ⟨rfl, rfl, rfl, rfl⟩

/-- A byte transfer and its settle wait, two pulses in 4-bit mode. -/
theorem Tally.instr_of_fourBit (h : cfg.mode = .fourBit) (b : Byte) (t : Nat) :
    Tally (instr cfg b t) 10 2 3 (cfg.tPw + (cfg.tPw + t)) := by
  rw [instr, xfer_of_fourBit h]
  exact ⟨rfl, rfl, rfl, rfl⟩

/-- Rule R118 in 8-bit mode: eight byte transfers. -/
theorem Tally.initEvents_of_eightBit (h : cfg.mode = .eightBit) :
    Tally (initEvents cfg) 48 8 (8 + 8)
      (8 * cfg.tPw + cfg.tReset1 + cfg.tReset2 + cfg.tReset3 + 4 * cfg.tShort + cfg.tLong) := by
  have byte := Tally.instr_of_eightBit h
  have step1 := ((byte (force8Byte cfg) cfg.tReset1).append (byte (force8Byte cfg) cfg.tReset2)).append
    (byte (force8Byte cfg) cfg.tReset3)
  have step3 := byte (finalByte cfg) cfg.tShort
  have step4 := (((byte (displayByte cfg false false false) cfg.tShort).append (byte (clearByte cfg) cfg.tLong)).append
    (byte (entryByte cfg true false) cfg.tShort)).append (byte (displayByte cfg true false false) cfg.tShort)
  obtain ⟨hevents, hpulses, hwaits, htime⟩ := (step1.append step3).append step4
  rw [initEvents, initStep1_of_eightBit h, initStep2_of_eightBit h]
  exact ⟨hevents, hpulses, hwaits, htime.trans (by omega)⟩

/-- Rule R118 in 4-bit mode: four nibble transfers and five byte transfers. -/
theorem Tally.initEvents_of_fourBit (h : cfg.mode = .fourBit) :
    Tally (initEvents cfg) 74 14 (14 + 9)
      (14 * cfg.tPw + cfg.tReset1 + cfg.tReset2 + cfg.tReset3 + 5 * cfg.tShort + cfg.tLong) := by
  have nibble := Tally.instrHi (cfg := cfg)
  have byte := Tally.instr_of_fourBit h
  have step1 := ((nibble (force8Byte cfg) cfg.tReset1).append (nibble (force8Byte cfg) cfg.tReset2)).append
    (nibble (force8Byte cfg) cfg.tReset3)
  have step2 := nibble (narrow4Byte cfg) cfg.tShort
  have step3 := byte (finalByte cfg) cfg.tShort
  have step4 := (((byte (displayByte cfg false false false) cfg.tShort).append (byte (clearByte cfg) cfg.tLong)).append
    (byte (entryByte cfg true false) cfg.tShort)).append (byte (displayByte cfg true false false) cfg.tShort)
  obtain ⟨hevents, hpulses, hwaits, htime⟩ := (step1.append (step2.append step3)).append step4
  rw [initEvents, initStep1_of_fourBit h, initStep2_of_fourBit h]
  exact ⟨hevents, hpulses, hwaits, htime.trans (by omega)⟩

end Size

/-! ### INIT_STATE, micro-step by micro-step -/

theorem State.advanceN_succ (s : State) (n : Nat) : s.advanceN (n + 1) = (s.advanceN n).advance := by
  induction n generalizing s with
  | zero => rfl
  | succ n ih => exact ih s.advance

/-- Rule R112 (t1) to (t3): INIT_STATE after `k` events of init. -/
def initPhase (cfg : Cfg) (k : Nat) : InitState :=
  if k < (initStep1 cfg).length then .resetSequence
  else if k < (initStep1 cfg).length + (initStep2 cfg).length + (initStep3 cfg).length then .functionSet
  else .displayConfigured

theorem length_instr_pos (cfg : Cfg) (b : Byte) (t : Nat) : 0 < (instr cfg b t).length := by simp [instr]

theorem length_initStep1_pos (cfg : Cfg) : 0 < (initStep1 cfg).length := by
  cases h : cfg.mode with
  | eightBit => simp [initStep1_of_eightBit h, instr]
  | fourBit => simp [initStep1_of_fourBit h, instrHi]

/-- The transitions of init keep INIT_STATE in step with the events emitted. -/
theorem initAfter_initState (s : State) (ev : Event) (h : s.initState = initPhase s.cfg s.seq) :
    (initAfter (s.emit ev)).initState = initPhase s.cfg (s.seq + 1) := by
  have hstep3 : 0 < (initStep3 s.cfg).length := length_instr_pos _ _ _
  simp only [initAfter, State.emit_cfg, State.emit_seq, List.length_append]
  split
  case isTrue hlast1 => rw [initPhase, if_neg (by omega), if_pos (by omega), State.enter_initState]
  case isFalse hlast1 =>
    split
    case isTrue hlast3 => rw [initPhase, if_neg (by omega), if_neg (by omega), State.enter_initState]
    case isFalse hlast3 =>
      have hstep1 : s.seq + 1 < (initStep1 s.cfg).length ↔ s.seq < (initStep1 s.cfg).length := by omega
      have hstep3 : s.seq + 1 < (initStep1 s.cfg).length + (initStep2 s.cfg).length + (initStep3 s.cfg).length
          ↔ s.seq < (initStep1 s.cfg).length + (initStep2 s.cfg).length + (initStep3 s.cfg).length := by omega
      rw [State.emit_initState, h, initPhase, initPhase, if_congr hstep1 rfl (if_congr hstep3 rfl rfl)]

/-- An init is in progress and has emitted `k` of its events. -/
structure State.Initializing (cfg : Cfg) (k : Nat) (s : State) : Prop where
  sameCfg : s.cfg = cfg
  busy : s.busy = true
  op : s.op = some .init
  seq : s.seq = k
  initState : s.initState = initPhase cfg k

theorem initEntry_initializing (s : State) : (initEntry s).Initializing s.cfg 0 :=
  ⟨rfl, rfl, rfl, rfl, (if_pos (length_initStep1_pos s.cfg)).symm⟩

theorem State.Initializing.advance {cfg : Cfg} {k : Nat} {s : State} (h : s.Initializing cfg k)
    (hk : k < (initEvents cfg).length) : s.advance.Initializing cfg (k + 1) := by
  obtain ⟨rfl, hbusy, hop, rfl, hphase⟩ := h
  rw [s.advance_of_event hbusy hop (List.getElem?_eq_getElem hk)]
  exact ⟨afterEvent_cfg _ _, (afterEvent_busy _ _).trans hbusy, (afterEvent_op _ _).trans hop, afterEvent_seq _ _,
    initAfter_initState s _ hphase⟩

theorem State.Initializing.advanceN {cfg : Cfg} {s : State} (h : s.Initializing cfg 0) {k : Nat}
    (hk : k ≤ (initEvents cfg).length) : (s.advanceN k).Initializing cfg k := by
  induction k with
  | zero => exact h
  | succ k ih =>
    rw [s.advanceN_succ]
    exact (ih (by omega)).advance hk

/-- Rule R112 (t4): the micro-step after the last event ends in READY. -/
theorem State.Initializing.advance_last {cfg : Cfg} {s : State} (h : s.Initializing cfg (initEvents cfg).length) :
    s.advance.initState = .ready := by
  obtain ⟨rfl, hbusy, hop, hseq, -⟩ := h
  rw [s.advance_of_no_event hbusy hop (List.getElem?_eq_none hseq.ge)]
  rfl

/-- With no init on the port a micro-step leaves INIT_STATE and brings no init there. -/
theorem State.advance_initState {s : State} (h : s.op ≠ some .init) :
    s.advance.initState = s.initState ∧ s.advance.op ≠ some .init := by
  cases hb : s.busy with
  | false => rw [s.advance_of_idle hb]; exact ⟨rfl, h⟩
  | true =>
    cases ho : s.op with
    | none => simp [State.advance, hb, ho]
    | some i =>
      have hi : i ≠ .init := by rintro rfl; exact h ho
      cases he : (eventsOf i s)[s.seq]? with
      | none =>
        rw [s.advance_of_no_event hb ho he]
        exact ⟨(commitOf_initialization_of_ne_init s hi).1, by simp⟩
      | some ev =>
        have hafter : afterEvent i (s.emit ev) = s.emit ev := by
          cases i with
          | init => exact absurd rfl hi
          | _ => rfl
        rw [s.advance_of_event hb ho he, hafter]
        exact ⟨rfl, h⟩

theorem State.advanceN_initState {s : State} (h : s.op ≠ some .init) (k : Nat) :
    (s.advanceN k).initState = s.initState := by
  induction k generalizing s with
  | zero => rfl
  | succ k ih =>
    obtain ⟨hkept, hop⟩ := s.advance_initState h
    exact (ih hop).trans hkept

/-- Acceptance of anything but init, or its failure, leaves INIT_STATE and puts no init on the port. -/
theorem startOp_initState_of_ne_init {s v : State} {i : Instr} (hi : i ≠ .init) (h : startOp i s = .next v) :
    v.initState = s.initState ∧ v.op ≠ some .init := by
  rcases startOp_cases s h with ⟨-, -, rfl⟩ | ⟨-, -, rfl⟩
  · rw [entryOf_of_ne_init s hi]
    exact ⟨rfl, by simpa using hi⟩
  · exact ⟨rfl, by simp⟩

end Sys2Proof.Machine
end

section
/-! SUPPORT. The statements of the family 42_init settled: what init leaves, its sequence, its transitions, and a second
init. -/

namespace Sys2Proof.Machine

/-- Settles O24: acceptance enters RESET_SEQUENCE, each event of init moves INIT_STATE as its number says, and a micro-step
of anything else leaves it. -/
theorem initStateTransitions : Obligations.InitStateTransitions := by
  unfold Obligations.InitStateTransitions
  intro s
  have hentry := initEntry_initializing s
  refine ⟨initEntry s, rfl, rfl, rfl, rfl, rfl, fun k hk => (hentry.advanceN hk).initState, ?_, fun i v k hi hstart => ?_,
    fun cfg => rfl⟩
  · rw [State.advanceN_succ]
    exact (hentry.advanceN le_rfl).advance_last
  · obtain ⟨hkept, hop⟩ := startOp_initState_of_ne_init hi hstart
    exact (State.advanceN_initState hop k).trans hkept

/-- Settles O22: the four steps in each mode, and the completion values. -/
theorem initResult : Obligations.InitResult := by
  unfold Obligations.InitResult
  intro s
  obtain ⟨t, hrun, hdone⟩ := exec_init_next s
  refine ⟨t, hrun, ?_, hdone.initState, hdone.status, hdone.ctl⟩
  convert hdone.ran using 1
  cases h : s.cfg.mode with
  | eightBit =>
    rw [initEvents, initStep1_of_eightBit h, initStep2_of_eightBit h, initStep3, finalByte_of_eightBit h]
    simp only [initStep4, displayEvents, force8Byte, List.nil_append, List.append_assoc]
  | fourBit =>
    rw [initEvents, initStep1_of_fourBit h, initStep2_of_fourBit h, initStep3, finalByte_of_fourBit h]
    simp only [initStep4, displayEvents, force8Byte, narrow4Byte, List.append_assoc]

/-- Settles O23: the tally of each mode's sequence, which is a function of CFG. -/
theorem initSequenceSize : Obligations.InitSequenceSize := by
  unfold Obligations.InitSequenceSize
  intro s t hrun
  refine ⟨initEvents s.cfg, (exec_init_done hrun).ran.trace, fun hmode => ?_, fun hmode => ?_, fun s' t' hcfg hrun' => ?_⟩
  · have htally := Tally.initEvents_of_fourBit hmode
    have htime := htally.time
    exact ⟨htally.events, htally.pulses, htally.countP_waits (fun ev => by cases ev <;> rfl), by omega⟩
  · have htally := Tally.initEvents_of_eightBit hmode
    have htime := htally.time
    exact ⟨htally.events, htally.pulses, htally.countP_waits (fun ev => by cases ev <;> rfl), by omega⟩
  · rw [← hcfg]
    exact (exec_init_done hrun').ran.trace

/-- Settles O25: both inits end in the completion values, with the same `backlight_on`, after the events of one CFG. -/
theorem initIsIdempotent : Obligations.InitIsIdempotent := by
  unfold Obligations.InitIsIdempotent
  intro s t hrun
  have hfirst := exec_init_done hrun
  obtain ⟨u, hrun', hsecond⟩ := exec_init_next t
  refine ⟨u, hrun', ?_, hsecond.status, hsecond.initState.trans hfirst.initState.symm, initEvents s.cfg, hfirst.ran.trace,
    hfirst.ran.cfg ▸ hsecond.ran.trace, ?_⟩
  · rw [hsecond.ctl, hfirst.ctl]
    rfl
  · cases hmode : s.cfg.mode with
    | fourBit => exact (Tally.initEvents_of_fourBit hmode).pulses
    | eightBit => exact (Tally.initEvents_of_eightBit hmode).pulses

end Sys2Proof.Machine
end

section
/-! SUPPORT. The operations of the READY state (rule R126): what one whose check passes leaves, and what one whose check
fails leaves. -/

namespace Sys2Proof.Machine

variable {s : State} {i : Instr}

/-- Rule R126 (b) to (d): an operation other than init whose check passes emits its events, performs its own state writes
and reports OK. -/
theorem exec_completes (hop : i.isOperation = true) (hne : i ≠ .init) (hcheck : checkOf i s = .ok) :
    ∃ t, exec i s = .next t ∧ s.Ran t (eventsOf i s) ∧ t.status = .ok ∧ t.initState = s.initState
      ∧ t.ctl = (commitOf i s).ctl := by
  refine ⟨commitOf i ((entryOf i s).emitAll (eventsOf i s)), ?_, s.ran_commitOf i _, ?_, ?_, commitOf_emitAll_ctl s i _⟩
  · rw [exec_eq, refusalOf_of_isOperation hop]
    exact if_pos hcheck
  · rw [commitOf_emitAll_status, commitOf_status_of_isOperation s hop]
  · rw [commitOf_emitAll_initState, (commitOf_initialization_of_ne_init s hne).1]

/-- Rules R126 (a) and R156: an operation whose check fails raises the check's error. -/
theorem exec_fails {code : Status} (hop : i.isOperation = true) (hcheck : checkOf i s = code) (hcode : code ≠ .ok) :
    exec i s = .next (s.failedWith code) := by
  subst hcheck
  rw [exec_eq, refusalOf_of_isOperation hop]
  exact if_neg hcode

/-- Rule R152: before init every other operation fails at the gate. -/
theorem checkOf_before_init (hop : i.isOperation = true) (hne : i ≠ .init) (h : s.ctl.initialized = false) :
    checkOf i s = .notInitializedError := by
  cases i with
  | init => exact absurd rfl hne
  | clear | home | position | write | writeChar | displayOnOff | backlight | createChar | displayShift | cursor =>
    exact s.gate_of_uninitialized h
  | _ => cases hop

theorem exec_before_init (hop : i.isOperation = true) (hne : i ≠ .init) (h : s.ctl.initialized = false) :
    exec i s = .next (s.failedWith .notInitializedError) :=
  exec_fails hop (checkOf_before_init hop hne h) nofun

/-- An instruction that ends with OK has passed its check and appended its events. -/
theorem exec_ok_trace {t : State} (h : exec i s = .next t) (hok : t.status = .ok) :
    checkOf i s = .ok ∧ t.trace = s.trace ++ eventsOf i s := by
  rcases exec_cases h with ⟨hcheck, -, rfl⟩ | ⟨herror, rfl⟩
  · exact ⟨hcheck, (s.ran_commitOf i _).trace⟩
  · exact absurd hok herror

/-- An operation other than init whose check passes leaves the sink that its events leave. -/
theorem exec_completes_sink (hop : i.isOperation = true) (hne : i ≠ .init) (hcheck : checkOf i s = .ok) :
    ∃ t, exec i s = .next t ∧ t.sink = (s.emitAll (eventsOf i s)).sink := by
  obtain ⟨t, hrun, -⟩ := exec_completes hop hne hcheck
  rcases exec_sink_of_ne_init hne hrun with ⟨herror, -⟩ | ⟨-, hsink⟩
  · exact absurd hcheck herror
  · exact ⟨t, hrun, hsink⟩

/-! ### The checks of the READY state -/

variable {slot : Int} {pattern : List Byte}

/-- Rule R136: what passes the checks of create_char. -/
theorem checkChar_eq_ok :
    checkChar slot pattern = .ok ↔
      0 ≤ slot ∧ slot ≤ 7 ∧ pattern.length = 8 ∧ ∀ b ∈ pattern, b &&& 0xE0 = 0 := by
  rw [← goodPattern_iff]
  unfold checkChar
  split
  case isTrue hbad =>
    have hout : slot < 0 ∨ 7 < slot := by simpa using hbad
    exact ⟨nofun, by omega⟩
  case isFalse hgood =>
    have hin : 0 ≤ slot ∧ slot ≤ 7 := by simpa using hgood
    split <;> simp_all

/-- Rule R136: the slot is checked before the pattern. -/
theorem checkChar_of_bad_slot (h : slot < 0 ∨ 7 < slot) : checkChar slot pattern = .outOfRangeError := by
  rw [checkChar, if_pos (by simpa using h)]

theorem checkChar_of_bad_pattern (h : 0 ≤ slot) (h' : slot ≤ 7)
    (hbad : pattern.length ≠ 8 ∨ ∃ b ∈ pattern, b &&& 0xE0 ≠ 0) : checkChar slot pattern = .invalidPatternError := by
  have hslot : ¬ (slot < 0 ∨ 7 < slot) := by omega
  have hpattern : ¬ goodPattern pattern = true := by
    rw [goodPattern_iff]
    rintro ⟨hlength, hbytes⟩
    rcases hbad with hbad | ⟨b, hmem, hbad⟩
    · exact hbad hlength
    · exact hbad (hbytes b hmem)
  rw [checkChar, if_neg (by simpa using hslot), if_neg hpattern]

/-- Rule R127: a cell of the grid passes the checks of position. -/
theorem checkOf_position_inGrid {c r : Int} (h : s.ctl.initialized = true) (hc : 0 ≤ c) (hc' : c < s.cfg.cols)
    (hr : 0 ≤ r) (hr' : r < s.cfg.rows) : checkOf (.position c r) s = .ok :=
  (s.gate_of_initialized h).trans (checkCoord_eq_ok.mpr ⟨hc, hc', hr, hr'⟩)

theorem checkOf_position_outside {c r : Int} (h : s.ctl.initialized = true)
    (hout : c < 0 ∨ s.cfg.cols ≤ c ∨ r < 0 ∨ s.cfg.rows ≤ r) : checkOf (.position c r) s = .outOfRangeError :=
  (s.gate_of_initialized h).trans (checkCoord_of_outside hout)

/-- Rule R131: write makes the checks of position on its resolved coordinate. -/
theorem checkOf_write (text : List Nat) (col row : Coord) :
    checkOf (.write text col row) s = checkOf (.position (resolve col s.col) (resolve row s.row)) s := rfl

theorem checkOf_createChar (h : s.ctl.initialized = true) :
    checkOf (.createChar slot pattern) s = checkChar slot pattern := s.gate_of_initialized h

/-! ### The events as the rules list them -/

/-- Rule R131: the bytes kept of a text, as many as fit the row. -/
theorem kept_eq_take_min (cfg : Cfg) (text : List Nat) (c : Int) :
    kept cfg text c = text.take (min (text.length : Int) (cfg.cols - c)).toNat := by
  rw [kept, List.take_eq_take_iff]
  omega

theorem length_kept (cfg : Cfg) (text : List Nat) (c : Int) :
    (kept cfg text c).length = min text.length (cfg.cols - c).toNat := by
  rw [kept, List.length_take, min_comm]

/-- Rule R131: a character is kept if its column is in the row. -/
theorem getElem?_kept {cfg : Cfg} {text : List Nat} {c : Int} {k : Nat} (h : (k : Int) < cfg.cols - c) :
    (kept cfg text c)[k]? = text[k]? := by
  rw [kept, List.getElem?_take_of_lt (by omega)]

/-- Rule R134: the line's level shows the state, inverted where it is active low. -/
theorem backlightLevel_eq (cfg : Cfg) (v : Bool) :
    backlightLevel cfg v = if v = cfg.blActiveHigh then true else false := by
  unfold backlightLevel
  cases v <;> cases cfg.blActiveHigh <;> rfl

end Sys2Proof.Machine
end

section
/-! SUPPORT. The size of a segment (rules R91, R139): its transfers, its data transfers, its settle waits, and its events
and pulses in either mode. -/

namespace Sys2Proof.Machine

theorem pulses_append (xs ys : List Event) : pulses (xs ++ ys) = pulses xs + pulses ys := List.countP_append

theorem dataTransfers_append (xs ys : List Event) : dataTransfers (xs ++ ys) = dataTransfers xs + dataTransfers ys :=
  List.countP_append

/-- Rule R139: what a segment of full-byte transfers and backlight events is made of, a transfer being 10 events and 2
pulses in 4-bit mode and 6 events and 1 pulse in 8-bit mode. -/
structure Sized (cfg : Cfg) (evs : List Event) (transfers dataCount settle blEvents : Nat) : Prop where
  dataTransfers : dataTransfers evs = dataCount
  time : waitTotal evs = pulses evs * cfg.tPw + settle
  fourBit : cfg.mode = .fourBit → pulses evs = 2 * transfers ∧ evs.length = 10 * transfers + blEvents
  eightBit : cfg.mode = .eightBit → pulses evs = transfers ∧ evs.length = 6 * transfers + blEvents

variable {cfg : Cfg}

theorem Sized.nil : Sized cfg [] 0 0 0 0 :=
  ⟨rfl, (Nat.zero_mul _).symm, fun _ => ⟨rfl, rfl⟩, fun _ => ⟨rfl, rfl⟩⟩

theorem Sized.bl (level : Bool) : Sized cfg [.bl level] 0 0 0 1 :=
  ⟨rfl, (Nat.zero_mul _).symm, fun _ => ⟨rfl, rfl⟩, fun _ => ⟨rfl, rfl⟩⟩

/-- One full byte and its settle wait, in either mode. -/
theorem Sized.transfer (rs : Bool) (b : Byte) (t : Nat) : Sized cfg (xfer cfg rs b ++ [.wait t]) 1 rs.toNat t 0 := by
  cases hmode : cfg.mode with
  | fourBit =>
    rw [xfer_of_fourBit hmode]
    refine ⟨by cases rs <;> rfl, ?_, fun _ => ⟨rfl, rfl⟩, fun h => absurd (hmode.symm.trans h) nofun⟩
    exact (show cfg.tPw + (cfg.tPw + t) = 2 * cfg.tPw + t by omega)
  | eightBit =>
    rw [xfer_of_eightBit hmode]
    refine ⟨by cases rs <;> rfl, ?_, fun h => absurd (hmode.symm.trans h) nofun, fun _ => ⟨rfl, rfl⟩⟩
    exact (show cfg.tPw + t = 1 * cfg.tPw + t by omega)

theorem Sized.instr (b : Byte) (t : Nat) : Sized cfg (instr cfg b t) 1 0 t 0 := Sized.transfer false b t

theorem Sized.data (b : Byte) : Sized cfg (data cfg b) 1 1 cfg.tData 0 := Sized.transfer true b cfg.tData

theorem Sized.append {xs ys : List Event} {k d w x k' d' w' x' : Nat} (hx : Sized cfg xs k d w x)
    (hy : Sized cfg ys k' d' w' x') : Sized cfg (xs ++ ys) (k + k') (d + d') (w + w') (x + x') where
  dataTransfers := by rw [dataTransfers_append, hx.dataTransfers, hy.dataTransfers]
  time := by rw [waitTotal_append, pulses_append, hx.time, hy.time, Nat.add_mul]; omega
  fourBit hmode := by
    obtain ⟨hpulses, hlength⟩ := hx.fourBit hmode
    obtain ⟨hpulses', hlength'⟩ := hy.fourBit hmode
    rw [pulses_append, List.length_append]
    omega
  eightBit hmode := by
    obtain ⟨hpulses, hlength⟩ := hx.eightBit hmode
    obtain ⟨hpulses', hlength'⟩ := hy.eightBit hmode
    rw [pulses_append, List.length_append]
    omega

theorem Sized.dataAll (bytes : List Byte) :
    Sized cfg (dataAll cfg bytes) bytes.length bytes.length (bytes.length * cfg.tData) 0 := by
  induction bytes with
  | nil => simpa [Machine.dataAll] using Sized.nil
  | cons b bytes ih =>
    have h := (Sized.data b).append ih
    rwa [Nat.add_comm 1, Nat.add_comm cfg.tData, ← Nat.succ_mul] at h

variable {s : State}

theorem Sized.backlightEvents (v : Bool) : Sized s.cfg (backlightEvents v s) 0 0 0 (if s.cfg.hasBl then 1 else 0) := by
  unfold Machine.backlightEvents
  split
  · exact Sized.bl _
  · exact Sized.nil

/-- Rule R131: the address, then one data transfer for each character that fits the row. -/
theorem Sized.writeEvents (text : List Nat) (col row : Coord) {n : Nat}
    (hn : n = min text.length (s.cfg.cols - resolve col s.col).toNat) :
    Sized s.cfg (writeEvents text col row s) (1 + n) n (s.cfg.tShort + n * s.cfg.tData) 0 := by
  have hlength : ((kept s.cfg text (resolve col s.col)).map lowByte).length = n := by
    rw [List.length_map, length_kept, hn]
  have h := (Sized.instr (cfg := s.cfg) (ddramByte s.cfg (s.cfg.ddramAddr (resolve col s.col) (resolve row s.row)))
    s.cfg.tShort).append (Sized.dataAll ((kept s.cfg text (resolve col s.col)).map lowByte))
  rwa [hlength, Nat.zero_add] at h

/-- Rule R137: two addresses and eight bytes of data. -/
theorem Sized.createCharEvents (slot : Int) {pattern : List Byte} (h : pattern.length = 8) :
    Sized s.cfg (createCharEvents slot pattern s) 10 8 (2 * s.cfg.tShort + 8 * s.cfg.tData) 0 := by
  have hsize := ((Sized.instr (cfg := s.cfg) (cgramByte s.cfg (cgramAddr slot)) s.cfg.tShort).append
    (Sized.dataAll pattern)).append (Sized.instr (ddramByte s.cfg (s.cfg.ddramAddr s.col s.row)) s.cfg.tShort)
  have hsettle : s.cfg.tShort + 8 * s.cfg.tData + s.cfg.tShort = 2 * s.cfg.tShort + 8 * s.cfg.tData := by omega
  rw [h, hsettle] at hsize
  exact hsize

end Sys2Proof.Machine
end

section
/-! SUPPORT. Bytes sent as data one after another (rule R59): the cells they land in, as long as the address counter stays
inside one stretch of the memory that the sink is on. -/

namespace Sys2Proof.Machine

/-! ### Consecutive cells -/

/-- `new` is `old` with `bytes` in consecutive cells from `a` on. -/
def Memory.Wrote (old new : Memory) (a : Nat) (bytes : List Byte) : Prop :=
  ∀ x, new.read x = if a ≤ x ∧ x < a + bytes.length then bytes[x - a]? else old.read x

theorem Memory.wrote_nil (m : Memory) (a : Nat) : m.Wrote m a [] := by
  intro x
  rw [if_neg (by simp)]

/-- One byte more, written to the cell after the last one. -/
theorem Memory.Wrote.snoc {old new : Memory} {a : Nat} {bytes : List Byte} (h : old.Wrote new a bytes) (b : Byte) :
    old.Wrote (new.write (a + bytes.length) b) a (bytes ++ [b]) := by
  intro x
  rw [Memory.read_write, h x, List.length_append, List.length_singleton]
  by_cases hlast : x = a + bytes.length
  · subst hlast
    simp
  · rw [if_neg hlast]
    by_cases hinside : a ≤ x ∧ x < a + bytes.length
    · rw [if_pos hinside, if_pos (by omega), List.getElem?_append_left (by omega)]
    · rw [if_neg hinside, if_neg (by omega)]

theorem Memory.Wrote.read_inside {old new : Memory} {a k : Nat} {bytes : List Byte} {b : Byte}
    (h : old.Wrote new a bytes) (hk : bytes[k]? = some b) : new.read (a + k) = some b := by
  obtain ⟨hlt, -⟩ := List.getElem?_eq_some_iff.mp hk
  rw [h, if_pos (by omega), Nat.add_sub_cancel_left, hk]

theorem Memory.Wrote.read_outside {old new : Memory} {a x : Nat} {bytes : List Byte} (h : old.Wrote new a bytes)
    (hx : x < a ∨ a + bytes.length ≤ x) : new.read x = old.read x := by
  rw [h, if_neg (by omega)]

/-! ### The address counter -/

/-- The memory of a sink that a target names. -/
def Sink.cells (sk : Sink) : Target → Memory
  | .ddram => sk.ddram
  | .cgram => sk.cgram

/-- The stretches on which the counter surely steps by one: a sink's own lines and the rows, or all of CGRAM. -/
def Sink.stretches (cfg : Cfg) (sk : Sink) : List (Nat × Nat) :=
  match sk.target with
  | .ddram => lineSpans cfg sk.n
  | .cgram => [(0, 63)]

variable {cfg : Cfg} {sk : Sink} {lo hi : Nat}

/-- Rule R59: inside a stretch the counter goes up by one. -/
theorem Sink.toNat_stepAc_up (k : Nat) (hstretch : (lo, hi) ∈ sk.stretches cfg) (hlo : lo ≤ sk.ac.toNat)
    (hhi : sk.ac.toNat < hi) (hfits : hi < 128) : (sk.stepAc cfg k true).toNat = sk.ac.toNat + 1 := by
  have hinside : insideSpan (sk.stretches cfg) sk.ac.toNat (sk.ac.toNat + 1) = true :=
    List.any_eq_true.mpr ⟨(lo, hi), hstretch, by simp; omega⟩
  have hstep : sk.stepAc cfg k true = sk.ac + 1 := if_pos hinside
  rw [hstep, BitVec.toNat_add]
  exact Nat.mod_eq_of_lt (show sk.ac.toNat + 1 < 128 by omega)

/-- Rules R45 and R59: every visible row is a stretch of DDRAM. -/
theorem Sink.row_mem_stretches {base : Nat} (htarget : sk.target = .ddram) (hbase : base ∈ cfg.rowBase) :
    (base, base + cfg.cols.toNat - 1) ∈ sk.stretches cfg := by
  rw [Sink.stretches, htarget]
  exact List.mem_append_right _ (List.mem_map_of_mem hbase)

/-- A stretch of CGRAM is all of it. -/
theorem Sink.stretch_of_cgram (htarget : sk.target = .cgram) (hstretch : (lo, hi) ∈ sk.stretches cfg) :
    lo = 0 ∧ hi = 63 := by
  rw [Sink.stretches, htarget] at hstretch
  simpa using hstretch

/-! ### Stored bytes -/

theorem and_mask_of_high_clear {b : Byte} (h : b &&& 0xE0 = 0) : b &&& 0x1F = b := by
  revert b
  decide

/-- Rule R59: a data byte goes to the cell at the counter in the target memory and leaves the other memory. A CGRAM cell
takes the byte whole if its high 3 bits are zero. -/
theorem Sink.storeByte_cells (k : Nat) (b : Byte) (hcgram : sk.target = .cgram → sk.ac.toNat < 64 ∧ b &&& 0xE0 = 0)
    (t : Target) :
    (sk.storeByte cfg k b).cells t = if t = sk.target then (sk.cells t).write sk.ac.toNat b else sk.cells t := by
  cases htarget : sk.target with
  | ddram =>
    rw [Sink.storeByte_of_ddram k htarget]
    cases t <;> rfl
  | cgram =>
    obtain ⟨hac, hb⟩ := hcgram htarget
    rw [Sink.storeByte_of_cgram k htarget, Nat.mod_eq_of_lt hac, and_mask_of_high_clear hb]
    cases t <;> rfl

/-- `new` is `old` after the data `bytes`, on a stretch that ends at `hi`: they are in consecutive cells of the target memory
from the counter on, and the counter is past the last one unless the stretch ends there. -/
structure Sink.Stored (hi : Nat) (old new : Sink) (bytes : List Byte) : Prop where
  target : new.target = old.target
  increment : new.id = old.id
  lines : new.n = old.n
  wrote : (old.cells old.target).Wrote (new.cells old.target) old.ac.toNat bytes
  others : ∀ t, t ≠ old.target → new.cells t = old.cells t
  counter : old.ac.toNat + bytes.length ≤ hi → new.ac.toNat = old.ac.toNat + bytes.length

theorem Sink.storeByte_modes (cfg : Cfg) (k : Nat) (b : Byte) (sk : Sink) :
    (sk.storeByte cfg k b).target = sk.target ∧ (sk.storeByte cfg k b).id = sk.id
    ∧ (sk.storeByte cfg k b).n = sk.n ∧ (sk.storeByte cfg k b).ac = sk.stepAc cfg k sk.id := by
  cases htarget : sk.target with
  | ddram => rw [Sink.storeByte_of_ddram k htarget]; exact ⟨htarget, rfl, rfl, rfl⟩
  | cgram => rw [Sink.storeByte_of_cgram k htarget]; exact ⟨htarget, rfl, rfl, rfl⟩

theorem Sink.stored_nil (hi : Nat) (sk : Sink) : Sink.Stored hi sk sk [] :=
  ⟨rfl, rfl, rfl, Memory.wrote_nil _ _, fun _ _ => rfl, fun _ => rfl⟩

/-- One byte more, at a counter that is still inside the stretch. -/
theorem Sink.Stored.snoc {old new : Sink} {bytes : List Byte} {b : Byte} (h : Sink.Stored hi old new bytes) (k : Nat)
    (hstretch : (lo, hi) ∈ old.stretches cfg) (hfits : hi < 128) (hup : old.id = true) (hlo : lo ≤ old.ac.toNat)
    (hhi : old.ac.toNat + bytes.length ≤ hi) (hb : old.target = .cgram → b &&& 0xE0 = 0) :
    Sink.Stored hi old (new.storeByte cfg k b) (bytes ++ [b]) := by
  obtain ⟨htarget, hid, hn, hac⟩ := Sink.storeByte_modes cfg k b new
  have hcounter := h.counter hhi
  have hcells := Sink.storeByte_cells (cfg := cfg) (sk := new) k b fun hcgram => by
    obtain ⟨-, rfl⟩ := Sink.stretch_of_cgram (h.target ▸ hcgram) hstretch
    exact ⟨by omega, hb (h.target ▸ hcgram)⟩
  rw [h.target] at hcells
  refine ⟨htarget.trans h.target, hid.trans h.increment, hn.trans h.lines, ?_, fun t ht => ?_, fun hend => ?_⟩
  · rw [hcells, if_pos rfl, hcounter]
    exact h.wrote.snoc b
  · rw [hcells, if_neg ht, h.others t ht]
  · have hstretch' : (lo, hi) ∈ new.stretches cfg := by
      rwa [Sink.stretches, h.target, h.lines]
    rw [List.length_append, List.length_singleton] at hend ⊢
    rw [hac, h.increment, hup, Sink.toNat_stepAc_up k hstretch' (by omega) (by omega) hfits, hcounter, Nat.add_assoc]

theorem dataAll_append (cfg : Cfg) (xs ys : List Byte) : dataAll cfg (xs ++ ys) = dataAll cfg xs ++ dataAll cfg ys :=
  List.flatMap_append

theorem dataAll_singleton (cfg : Cfg) (b : Byte) : dataAll cfg [b] = data cfg b := List.append_nil _

/-- Rule R59: data that does not leave the stretch, sent after events that leave the sink `sk`, lands in consecutive cells
and leaves the sink in step. -/
theorem State.dataAll_stored {s : State} {evs : List Event} (bytes : List Byte) (hsink : (s.emitAll evs).sink = sk)
    (hstep : sk.inStep s.cfg) (hstretch : (lo, hi) ∈ sk.stretches s.cfg) (hfits : hi < 128) (hup : sk.id = true)
    (hlo : lo ≤ sk.ac.toNat) (hend : sk.ac.toNat + bytes.length ≤ hi + 1)
    (hbytes : sk.target = .cgram → ∀ b ∈ bytes, b &&& 0xE0 = 0) :
    (s.emitAll (evs ++ dataAll s.cfg bytes)).sink.inStep s.cfg
    ∧ Sink.Stored hi sk (s.emitAll (evs ++ dataAll s.cfg bytes)).sink bytes := by
  induction bytes using List.reverseRecOn with
  | nil =>
    rw [show dataAll s.cfg [] = [] from rfl, List.append_nil, hsink]
    exact ⟨hstep, Sink.stored_nil hi sk⟩
  | append_singleton bytes b ih =>
    rw [List.length_append, List.length_singleton] at hend
    obtain ⟨hstep', hstored⟩ := ih (by omega) fun ht b' hb' => hbytes ht b' (List.mem_append_left _ hb')
    have hlast := State.data_sink (s := s.emitAll (evs ++ dataAll s.cfg bytes)) b (by rwa [State.emitAll_cfg])
    rw [State.emitAll_cfg, ← State.emitAll_append, List.append_assoc, ← dataAll_singleton, ← dataAll_append] at hlast
    rw [hlast]
    exact ⟨Sink.storeByte_inStep _ _ b hstep',
      hstored.snoc _ hstretch hfits hup hlo (by omega) fun ht => hbytes ht b (by simp)⟩

/-! ### Addresses first -/

/-- A sink with its counter set to an address of a memory. -/
def Sink.aimedAt (sk : Sink) (target : Target) (a : BitVec 7) : Sink := { sk with target := target, ac := a }

theorem Sink.aimedAt_inStep (target : Target) (a : BitVec 7) (h : sk.inStep cfg) : (sk.aimedAt target a).inStep cfg :=
  ⟨h.known, h.wide, h.half⟩

variable {s : State}

/-- Rule R104: a sink in step takes the address of a cell. -/
theorem State.positionEvents_sink (hstd : s.cfg.standardBytes = true) (hstep : s.sink.inStep s.cfg) (c r : Int) :
    (s.emitAll (positionEvents s.cfg c r)).sink = s.sink.aimedAt .ddram (s.cfg.ddramAddr c r) :=
  (State.instr_sink _ _ hstep).trans (Sink.execByte_ddramByte _ _ hstd _)

/-- Rule R103: a sink in step takes the address of a slot. -/
theorem State.cgramByte_sink (hstd : s.cfg.standardBytes = true) (hstep : s.sink.inStep s.cfg) (a : BitVec 6) (t : Nat) :
    (s.emitAll (instr s.cfg (cgramByte s.cfg a) t)).sink = s.sink.aimedAt .cgram (a.setWidth 7) :=
  (State.instr_sink _ _ hstep).trans (Sink.execByte_cgramByte _ _ hstd _)

/-- Rule R48: the counter at the start of a slot. -/
theorem toNat_slotAddress {slot : Nat} (h : slot ≤ 7) : ((cgramAddr slot).setWidth 7).toNat = 8 * slot := by
  rw [BitVec.toNat_setWidth, toNat_cgramAddr (by omega) (by omega)]
  omega

/-- Rules R45 and R131: what a write keeps of its text lands in the row, from the addressed cell on. -/
theorem State.Synced.writeEvents_stored {text : List Nat} {col row : Coord} {base : Nat} (h : s.Synced)
    (hbase : s.cfg.rowBase[(resolve row s.row).toNat]? = some base) (hlast : (base : Int) + s.cfg.cols - 1 ≤ 0x7F)
    (hc : 0 ≤ resolve col s.col) (hc' : resolve col s.col < s.cfg.cols) :
    Sink.Stored (base + s.cfg.cols.toNat - 1)
      (s.sink.aimedAt .ddram (s.cfg.ddramAddr (resolve col s.col) (resolve row s.row)))
      (s.emitAll (writeEvents text col row s)).sink ((kept s.cfg text (resolve col s.col)).map lowByte) := by
  have haddress : ((s.sink.aimedAt .ddram (s.cfg.ddramAddr (resolve col s.col) (resolve row s.row))).ac.toNat : Int)
      = base + resolve col s.col := Cfg.toNat_ddramAddr hbase hc (by omega)
  have hlength : ((kept s.cfg text (resolve col s.col)).map lowByte).length ≤ (s.cfg.cols - resolve col s.col).toNat := by
    rw [List.length_map, length_kept]
    exact min_le_right _ _
  exact (State.dataAll_stored _ (State.positionEvents_sink h.bytes h.inStep _ _)
    (Sink.aimedAt_inStep _ _ h.inStep) (Sink.row_mem_stretches rfl (List.mem_of_getElem? hbase)) (by omega) h.increment
    (by omega) (by omega) nofun).2

/-- Rules R43, R48 and R137: the pattern lands in the slot's cells, and the sink stays in step for the address after it. -/
theorem State.Synced.pattern_stored {slot : Nat} {pattern : List Byte} (h : s.Synced) (hslot : slot ≤ 7)
    (hlength : pattern.length = 8) (hbytes : ∀ b ∈ pattern, b &&& 0xE0 = 0) (t : Nat) :
    (s.emitAll (instr s.cfg (cgramByte s.cfg (cgramAddr slot)) t ++ dataAll s.cfg pattern)).sink.inStep s.cfg
    ∧ Sink.Stored 63 (s.sink.aimedAt .cgram ((cgramAddr slot).setWidth 7))
        (s.emitAll (instr s.cfg (cgramByte s.cfg (cgramAddr slot)) t ++ dataAll s.cfg pattern)).sink pattern := by
  have haddress : (s.sink.aimedAt .cgram ((cgramAddr slot).setWidth 7)).ac.toNat = 8 * slot := toNat_slotAddress hslot
  exact State.dataAll_stored pattern (State.cgramByte_sink h.bytes h.inStep _ t) (Sink.aimedAt_inStep _ _ h.inStep)
    (List.mem_singleton_self (0, 63)) (by decide) h.increment (Nat.zero_le _) (by omega) fun _ => hbytes

/-- Rules R137 and R187: after the pattern the sink is back at the cached cell, with both memories as the pattern left
them. -/
theorem State.Synced.createCharEvents_sink {slot : Nat} {pattern : List Byte} (h : s.Synced) (hslot : slot ≤ 7)
    (hlength : pattern.length = 8) (hbytes : ∀ b ∈ pattern, b &&& 0xE0 = 0) :
    ∃ sk, Sink.Stored 63 (s.sink.aimedAt .cgram ((cgramAddr slot).setWidth 7)) sk pattern
      ∧ (s.emitAll (createCharEvents slot pattern s)).sink = sk.aimedAt .ddram (s.cfg.ddramAddr s.col s.row) := by
  obtain ⟨hstep, hstored⟩ := h.pattern_stored hslot hlength hbytes s.cfg.tShort
  refine ⟨_, hstored, ?_⟩
  have hback := State.positionEvents_sink (s := s.emitAll (instr s.cfg (cgramByte s.cfg (cgramAddr slot)) s.cfg.tShort
    ++ dataAll s.cfg pattern)) (by rw [State.emitAll_cfg]; exact h.bytes) (by rwa [State.emitAll_cfg]) s.col s.row
  rwa [State.emitAll_cfg, ← State.emitAll_append] at hback

end Sys2Proof.Machine
end

section
/-! SUPPORT. The statements of the family 43_operations settled: what each operation of the READY state sends and writes, how
large it is, and where its data lands in the display. -/

namespace Sys2Proof.Machine

/-- Settles O26: each passes the gate and sends its one byte, or fails at it. -/
theorem clearAndHomeResults : Obligations.ClearAndHomeResults := by
  unfold Obligations.ClearAndHomeResults
  exact fun s => ⟨fun h =>
      ⟨exec_completes (i := .clear) rfl nofun (s.gate_of_initialized h),
        exec_completes (i := .home) rfl nofun (s.gate_of_initialized h)⟩,
    fun h => ⟨exec_before_init rfl nofun h, exec_before_init rfl nofun h⟩⟩

/-- Settles O27: the check of the coordinate decides. -/
theorem positionResult : Obligations.PositionResult := by
  unfold Obligations.PositionResult
  exact fun s c r =>
    ⟨fun h hc hc' hr hr' => exec_completes (i := .position c r) rfl nofun (checkOf_position_inGrid h hc hc' hr hr'),
      fun h hout => exec_fails rfl (checkOf_position_outside h hout) nofun, exec_before_init rfl nofun⟩

/-- Settles O28: the check of the resolved coordinate decides, and what is kept of the text fits the row. -/
theorem writeResult : Obligations.WriteResult := by
  unfold Obligations.WriteResult
  intro s text col row c r hcol hrow
  obtain rfl : c = resolve col s.col := hcol
  obtain rfl : r = resolve row s.row := hrow
  refine ⟨fun h hc hc' hr hr' => ?_, fun h hout => exec_fails rfl (checkOf_position_outside h hout) nofun,
    exec_before_init rfl nofun⟩
  rw [← kept_eq_take_min, ← List.flatMap_def, ← List.flatMap_map]
  exact exec_completes (i := .write text col row) rfl nofun (checkOf_position_inGrid h hc hc' hr hr')

/-- Settles O29: a write that ends with OK has a column of the row, from which on it keeps what fits. -/
theorem writeTruncatesAtRowEnd : Obligations.WriteTruncatesAtRowEnd := by
  unfold Obligations.WriteTruncatesAtRowEnd
  intro s t text col row hrun hok
  obtain ⟨hcheck, htrace⟩ := exec_ok_trace hrun hok
  obtain ⟨hc, hc', -, -⟩ := checkCoord_eq_ok.mp (State.gate_eq_ok hcheck)
  have hdata := (Sized.writeEvents (s := s) text col row rfl).dataTransfers
  refine ⟨writeEvents text col row s, htrace, ?_⟩
  rw [hdata]
  omega

/-- Settles O30: one data byte, and no state write but STATUS. -/
theorem writeCharResult : Obligations.WriteCharResult := by
  unfold Obligations.WriteCharResult
  exact fun s code =>
    ⟨fun h => exec_completes (i := .writeChar code) rfl nofun (s.gate_of_initialized h), exec_before_init rfl nofun⟩

/-- Settles O31: both send the flags as their own writes leave them. -/
theorem displayControlOperationsResults : Obligations.DisplayControlOperationsResults := by
  unfold Obligations.DisplayControlOperationsResults
  exact fun s state visible blink => ⟨fun h =>
      ⟨exec_completes (i := .displayOnOff state) rfl nofun (s.gate_of_initialized h),
        exec_completes (i := .cursor visible blink) rfl nofun (s.gate_of_initialized h)⟩,
    fun h => ⟨exec_before_init rfl nofun h, exec_before_init rfl nofun h⟩⟩

/-- Settles O32: the level of the line shows the state, and there is no line without a pin. -/
theorem backlightResult : Obligations.BacklightResult := by
  unfold Obligations.BacklightResult
  intro s state
  rw [← backlightLevel_eq]
  exact ⟨fun h => exec_completes (i := .backlight state) rfl nofun (s.gate_of_initialized h), exec_before_init rfl nofun⟩

/-- Settles O33: the direction is one bit of the shift byte. -/
theorem displayShiftResult : Obligations.DisplayShiftResult := by
  unfold Obligations.DisplayShiftResult
  intro s direction
  refine ⟨fun h => ?_, exec_before_init rfl nofun⟩
  have hrun := exec_completes (i := .displayShift direction) rfl nofun (s.gate_of_initialized h)
  cases direction with
  | left => exact hrun
  | right => exact hrun

/-- Settles O34: the checks in their order, and the transfers of a slot and a pattern that pass them. -/
theorem createCharResult : Obligations.CreateCharResult := by
  unfold Obligations.CreateCharResult
  intro s slot pattern
  refine ⟨fun h hslot hslot' hlength hbytes => ?_,
    fun h hslot => exec_fails rfl ((checkOf_createChar h).trans (checkChar_of_bad_slot hslot)) nofun,
    fun h hslot hslot' hbad =>
      exec_fails rfl ((checkOf_createChar h).trans (checkChar_of_bad_pattern hslot hslot' hbad)) nofun,
    exec_before_init rfl nofun⟩
  rw [← List.flatMap_def]
  exact exec_completes (i := .createChar slot pattern) rfl nofun
    ((checkOf_createChar h).trans (checkChar_eq_ok.mpr ⟨hslot, hslot', hlength, hbytes⟩))

/-- Settles O35, operation by operation. -/
theorem operationSizes : Obligations.OperationSizes := by
  unfold Obligations.OperationSizes
  intro i s t k d w x hrun hok hsize
  obtain ⟨hcheck, htrace⟩ := exec_ok_trace hrun hok
  suffices h : Sized s.cfg (eventsOf i s) k d w x from ⟨_, htrace, h.dataTransfers, h.time, h.fourBit, h.eightBit⟩
  cases i with
  | clear | home | position | displayOnOff | displayShift | cursor =>
    obtain ⟨rfl, rfl, rfl, rfl⟩ := hsize
    exact Sized.instr _ _
  | writeChar code =>
    obtain ⟨rfl, rfl, rfl, rfl⟩ := hsize
    exact Sized.data code
  | write text col row =>
    obtain ⟨hd, rfl, rfl, rfl⟩ := hsize
    exact Sized.writeEvents text col row hd
  | createChar slot pattern =>
    obtain ⟨rfl, rfl, rfl, rfl⟩ := hsize
    obtain ⟨-, -, hlength, -⟩ := checkChar_eq_ok.mp (State.gate_eq_ok hcheck)
    exact Sized.createCharEvents slot hlength
  | backlight v =>
    obtain ⟨rfl, rfl, rfl, rfl⟩ := hsize
    exact Sized.backlightEvents v
  | _ => exact hsize.elim

/-- Settles O50: the address and then the kept bytes, which do not leave the row. -/
theorem writeLandsInRow : Obligations.WriteLandsInRow := by
  unfold Obligations.WriteLandsInRow
  rintro s text col row c r hwf hinit hsynced rfl rfl hc hc' hr hr'
  obtain ⟨t, hrun, hsink⟩ := exec_completes_sink (i := .write text col row) rfl nofun
    (checkOf_position_inGrid hinit hc hc' hr hr')
  obtain ⟨base, hbase, hlast⟩ := Cfg.rowBase_of_wf hwf hr hr'
  have haddress := Cfg.toNat_ddramAddr hbase hc (by omega)
  have hlength : ((kept s.cfg text (resolve col s.col)).map lowByte).length
      = min text.length (s.cfg.cols - resolve col s.col).toNat := by rw [List.length_map, length_kept]
  obtain ⟨-, -, -, hwrote, hothers, hcounter⟩ := hsynced.writeEvents_stored (text := text) (row := row) hbase hlast hc hc'
  refine ⟨t, hrun, ?_⟩
  rw [show t.sink = (s.emitAll (writeEvents text col row s)).sink from hsink]
  refine ⟨fun k cp hk hk' => hwrote.read_inside ?_, fun a ha => hwrote.read_outside (hlength ▸ ha),
    fun a => congrArg (Memory.read · a) (hothers .cgram nofun), fun hshort => ?_⟩
  · rw [List.getElem?_map, getElem?_kept hk', hk]
    rfl
  · rw [hlength, min_eq_left (by omega)] at hcounter
    exact hcounter (show (s.cfg.ddramAddr (resolve col s.col) (resolve row s.row)).toNat + text.length ≤ _ by omega)

/-- Settles O51: the one byte goes to the cell at the counter. -/
theorem writeCharLandsAtCounter : Obligations.WriteCharLandsAtCounter := by
  unfold Obligations.WriteCharLandsAtCounter
  intro s code hinit hsynced
  obtain ⟨t, hrun, hsink⟩ := exec_completes_sink (i := .writeChar code) rfl nofun (s.gate_of_initialized hinit)
  refine ⟨t, hrun, ?_⟩
  rw [hsink, show eventsOf (.writeChar code) s = data s.cfg code from rfl, State.data_sink code hsynced.inStep,
    Sink.storeByte_of_ddram _ hsynced.target]
  exact ⟨Memory.read_write_same _ _ _, fun a ha => Memory.read_write_other _ _ ha, fun _ => rfl⟩

/-- Settles O52: the slot's address, the eight bytes inside CGRAM, and the address of the cached cell. -/
theorem createCharFillsSlot : Obligations.CreateCharFillsSlot := by
  unfold Obligations.CreateCharFillsSlot
  intro s slot pattern hinit hsynced hslot hlength hbytes
  obtain ⟨t, hrun, hsink⟩ := exec_completes_sink (i := .createChar slot pattern) rfl nofun
    ((checkOf_createChar hinit).trans (checkChar_eq_ok.mpr ⟨by omega, by omega, hlength, hbytes⟩))
  obtain ⟨sk, ⟨-, -, -, hwrote, hothers, -⟩, hback⟩ := hsynced.createCharEvents_sink hslot hlength hbytes
  have hwrote' : s.sink.cgram.Wrote sk.cgram (8 * slot) pattern := toNat_slotAddress hslot ▸ hwrote
  refine ⟨t, hrun, ?_⟩
  rw [hsink, show eventsOf (.createChar slot pattern) s = createCharEvents slot pattern s from rfl, hback]
  exact ⟨fun l b hl => hwrote'.read_inside hl, fun a ha => hwrote'.read_outside (hlength ▸ ha),
    fun a => congrArg (Memory.read · a) (hothers .ddram nofun), rfl, rfl⟩

end Sys2Proof.Machine
end

section
/-! SUPPORT. Errors (rules R151 to R156): which STATUS an operation ends with, what one that fails writes, and which operands
each error names; and what the host's port makes of what is presented (rules R170, R171). -/

namespace Sys2Proof.Machine

variable {s t : State} {i : Instr}

/-! ### The end of an operation -/

/-- Rules R126 and R155: an operation ends with the answer of its check. -/
theorem exec_status (hop : i.isOperation = true) (hrun : exec i s = .next t) : t.status = checkOf i s := by
  rcases exec_cases hrun with ⟨hcheck, -, rfl⟩ | ⟨-, rfl⟩
  · rw [commitOf_emitAll_status, commitOf_status_of_isOperation s hop, hcheck]
  · rfl

/-- Rule R156: an operation that ends with an error has written STATUS alone. -/
theorem exec_eq_failedWith (hop : i.isOperation = true) (hrun : exec i s = .next t) (herror : t.status ≠ .ok) :
    t = s.failedWith t.status :=
  Host.Outcome.next.inj (hrun.symm.trans (exec_fails hop (exec_status hop hrun).symm herror))

/-! ### The errors of the READY state -/

/-- Rules R153 to R155: `code` is OutOfRangeError exactly under `badPlace`, InvalidPatternError exactly under `badPattern`,
and otherwise OK. -/
def Status.Reports (code : Status) (badPlace badPattern : Prop) : Prop :=
  (code = .outOfRangeError ↔ badPlace) ∧ (code = .invalidPatternError ↔ badPattern)
    ∧ code ≠ .notInitializedError ∧ code ≠ .configurationError

section Reports

variable {badPlace badPattern : Prop}

theorem Status.reports_ok (hplace : ¬ badPlace) (hpattern : ¬ badPattern) : Status.Reports .ok badPlace badPattern := by
  simp [Status.Reports, hplace, hpattern]

theorem Status.reports_outOfRangeError (hplace : badPlace) (hpattern : ¬ badPattern) :
    Status.Reports .outOfRangeError badPlace badPattern := by
  simp [Status.Reports, hplace, hpattern]

theorem Status.reports_invalidPatternError (hplace : ¬ badPlace) (hpattern : badPattern) :
    Status.Reports .invalidPatternError badPlace badPattern := by
  simp [Status.Reports, hplace, hpattern]

end Reports

/-- Rule R153 (a): the check of a coordinate reports whether it is outside the grid. -/
theorem checkCoord_reports (cfg : Cfg) (c r : Int) :
    (checkCoord cfg c r).Reports (c < 0 ∨ cfg.cols ≤ c ∨ r < 0 ∨ cfg.rows ≤ r) False := by
  by_cases hout : c < 0 ∨ cfg.cols ≤ c ∨ r < 0 ∨ cfg.rows ≤ r
  · rw [checkCoord_of_outside hout]
    exact Status.reports_outOfRangeError hout not_false
  · rw [checkCoord_eq_ok.mpr (by omega)]
    exact Status.reports_ok hout not_false

/-- Rules R153 (b), R154 and R155: the check of create_char reports the slot first, then the pattern. -/
theorem checkChar_reports (slot : Int) (pattern : List Byte) :
    (checkChar slot pattern).Reports (slot < 0 ∨ 7 < slot)
      ((0 ≤ slot ∧ slot ≤ 7) ∧ (pattern.length ≠ 8 ∨ ∃ b ∈ pattern, b &&& 0xE0 ≠ 0)) := by
  by_cases hslot : slot < 0 ∨ 7 < slot
  · rw [checkChar_of_bad_slot hslot]
    exact Status.reports_outOfRangeError hslot (by omega)
  obtain ⟨hlow, hhigh⟩ : 0 ≤ slot ∧ slot ≤ 7 := by omega
  by_cases hpattern : pattern.length ≠ 8 ∨ ∃ b ∈ pattern, b &&& 0xE0 ≠ 0
  · rw [checkChar_of_bad_pattern hlow hhigh hpattern]
    exact Status.reports_invalidPatternError hslot ⟨⟨hlow, hhigh⟩, hpattern⟩
  · obtain ⟨hlength, hbytes⟩ : pattern.length = 8 ∧ ∀ b ∈ pattern, b &&& 0xE0 = 0 := by
      simpa [not_or] using hpattern
    rw [checkChar_eq_ok.mpr ⟨hlow, hhigh, hlength, hbytes⟩]
    exact Status.reports_ok hslot fun h => hpattern h.2

/-- Rule R130: past the gate, position checks its coordinate. -/
theorem checkOf_position {c r : Int} (h : s.ctl.initialized = true) :
    checkOf (.position c r) s = checkCoord s.cfg c r := s.gate_of_initialized h

/-! ### Presenting -/

/-- Rule R171: a start move is presented to be accepted. -/
theorem step_of_start {x : Encoded} {rest : List Input} (hwf : s.cfg.wf = true)
    (hmove : s.inputs = .start x :: rest) : step s = present startOp x { s with inputs := rest } := by
  simp [step, portStep, hostMove, hwf, hmove]

/-- Rule R170: a busy engine refuses what is presented, whatever it is. -/
theorem present_of_busy {run : Instr → State → Result} {x : Encoded} (hbusy : s.busy = true) :
    present run x s = .refused .presentedWhileBusy := by
  simp [present, hbusy]

/-- Rule R170: an idle engine runs what the decoder reads. -/
theorem present_of_decode {run : Instr → State → Result} {x : Encoded} (hidle : s.busy = false)
    (hdecode : decode s.cfg.cpWidth x = .ok i) : present run x s = run i s := by
  simp [present, hidle, hdecode]

end Sys2Proof.Machine
end

section
/-! SUPPORT. The statements of the family 60_exceptions settled: the errors of the operations, and the host's port. -/

namespace Sys2Proof.Machine

/-- Settles O37: an operation ends with the answer of its check, which is the gate before init and reports the operands
after it. -/
theorem statusOfEveryOperation : Obligations.StatusOfEveryOperation := by
  unfold Obligations.StatusOfEveryOperation
  intro i s t hop hrun
  have hstatus := exec_status hop hrun
  refine ⟨?_, fun hne hinit => hstatus.trans (checkOf_before_init hop hne hinit), fun hne hinit => ?_,
    exec_eq_failedWith hop hrun⟩
  · rintro rfl
    exact hstatus
  · rw [hstatus]
    cases i with
    | init => exact absurd rfl hne
    | position c r =>
      rw [checkOf_position hinit]
      exact checkCoord_reports s.cfg c r
    | write text col row =>
      rw [checkOf_write, checkOf_position hinit]
      exact checkCoord_reports s.cfg (resolve col s.col) (resolve row s.row)
    | createChar slot pattern =>
      rw [checkOf_createChar hinit]
      exact checkChar_reports slot pattern
    | clear | home | writeChar | displayOnOff | backlight | displayShift | cursor =>
      change (s.gate .ok).Reports False False
      rw [s.gate_of_initialized hinit]
      exact Status.reports_ok not_false not_false
    | _ => cases hop

/-- Settles O38: no operation is refused, and its failure is its check's. -/
theorem failedOperationWritesOnlyStatus : Obligations.FailedOperationWritesOnlyStatus := by
  unfold Obligations.FailedOperationWritesOnlyStatus
  intro i s hop
  obtain ⟨t, hrun⟩ := exec_next_of_form s (refusalOf_of_isOperation hop s.cfg)
  exact ⟨t, hrun, exec_eq_failedWith hop hrun⟩

/-- Settles O5: both moves present to an idle engine, which runs or accepts what the decoder reads. -/
theorem stepRunsDecodedInstruction : Obligations.StepRunsDecodedInstruction := by
  unfold Obligations.StepRunsDecodedInstruction
  intro s x i rest hwf hidle hdecode
  exact ⟨fun hmove => (step_of_operate hwf hmove).trans (present_of_decode hidle hdecode),
    fun hmove => (step_of_start hwf hmove).trans (present_of_decode hidle hdecode)⟩

/-- Settles O7: both moves present, and a busy engine refuses. -/
theorem presentingWhileBusyIsRefused : Obligations.PresentingWhileBusyIsRefused := by
  unfold Obligations.PresentingWhileBusyIsRefused
  rintro s x rest hwf hbusy (hmove | hmove)
  · exact (step_of_operate hwf hmove).trans (present_of_busy hbusy)
  · exact (step_of_start hwf hmove).trans (present_of_busy hbusy)

end Sys2Proof.Machine
end

section
/-! SUPPORT. The agreement of engine and display (rules R54, R187) on one transfer after another: what each address and each
data byte leaves of it, and how an init brings it about from any sink (rules R114 to R117, R192). -/

namespace Sys2Proof.Machine

/-! ### Agreement in either address mode -/

/-- The sink is as an engine with the configuration `cfg` and the Controller State `ctl` means it, but that its target RAM
is `target`. -/
structure Sink.Agrees (cfg : Cfg) (ctl : Controller) (target : Target) (sk : Sink) : Prop where
  known : sk.knowledge = .known
  wide : sk.wide = decide (cfg.mode = .eightBit)
  half : sk.half = none
  target : sk.target = target
  increment : sk.id = true
  noShift : sk.s = false
  display : sk.d = ctl.displayOn
  cursorShown : sk.c = ctl.cursorVisible
  blink : sk.b = ctl.cursorBlink
  lines : sk.n = decide (2 ≤ cfg.rows)
  font : sk.f = cfg.font5x10

section Agrees

variable {cfg : Cfg} {ctl : Controller} {target : Target} {sk : Sink}

theorem Sink.Agrees.inStep (h : sk.Agrees cfg ctl target) : sk.inStep cfg := { h with }

theorem State.synced_iff {s : State} :
    s.Synced ↔ s.cfg.standardBytes = true ∧ s.sink.Agrees s.cfg s.ctl .ddram :=
  ⟨fun h => ⟨h.bytes, { h, h.inStep with }⟩, fun ⟨hbytes, h⟩ => { h with bytes := hbytes, inStep := h.inStep }⟩

theorem Sink.Agrees.aimedAt (h : sk.Agrees cfg ctl target) (target' : Target) (a : BitVec 7) :
    (sk.aimedAt target' a).Agrees cfg ctl target' := { h with target := rfl }

/-- Rule R59: data changes a cell, the counter and SHIFT, which are no part of the agreement. -/
theorem Sink.Agrees.storeByte (h : sk.Agrees cfg ctl target) (k : Nat) (b : Byte) :
    (sk.storeByte cfg k b).Agrees cfg ctl target := by
  cases htarget : sk.target with
  | ddram => rw [Sink.storeByte_of_ddram k htarget]; exact { h with }
  | cgram => rw [Sink.storeByte_of_cgram k htarget]; exact { h with }

end Agrees

/-! ### One more transfer -/

section Transfers

variable {s : State} {evs : List Event} {sk sk' : Sink}

/-- An instruction byte sent after events that leave a sink in step is delivered to that sink. -/
theorem State.emitAll_append_instr_sink {b : Byte} (hsink : (s.emitAll evs).sink = sk) (hstep : sk.inStep s.cfg)
    (hexec : ∀ k, sk.execByte s.cfg k b = sk') (t : Nat) : (s.emitAll (evs ++ instr s.cfg b t)).sink = sk' := by
  subst hsink
  have h := State.instr_sink (s := s.emitAll evs) b t (by rwa [State.emitAll_cfg])
  rwa [State.emitAll_cfg, ← State.emitAll_append, hexec] at h

variable {ctl : Controller} {target : Target}

theorem State.emitAll_append_data_agrees (h : (s.emitAll evs).sink.Agrees s.cfg ctl target) (b : Byte) :
    (s.emitAll (evs ++ data s.cfg b)).sink.Agrees s.cfg ctl target := by
  have hsink := State.data_sink (s := s.emitAll evs) b (by rw [State.emitAll_cfg]; exact h.inStep)
  rw [State.emitAll_cfg, ← State.emitAll_append] at hsink
  exact hsink ▸ h.storeByte _ b

theorem State.emitAll_append_dataAll_agrees (h : (s.emitAll evs).sink.Agrees s.cfg ctl target) (bytes : List Byte) :
    (s.emitAll (evs ++ dataAll s.cfg bytes)).sink.Agrees s.cfg ctl target := by
  induction bytes generalizing evs with
  | nil => rwa [show dataAll s.cfg [] = [] from rfl, List.append_nil]
  | cons b bytes ih =>
    rw [show dataAll s.cfg (b :: bytes) = data s.cfg b ++ dataAll s.cfg bytes from rfl, ← List.append_assoc]
    exact ih (State.emitAll_append_data_agrees h b)

end Transfers

/-! ### The operations of the READY state -/

/-- Rules R54 (b) and R187: what an operation sends, and what it writes to the Controller State, keep the agreement. A
pattern goes to CGRAM, and the address of the cached cell that follows it leads back to DDRAM (rule R137). -/
theorem State.Synced.eventsOf_agrees {i : Instr} {s : State} (h : s.Synced) (hop : i.isOperation = true) (hne : i ≠ .init) :
    (s.emitAll (eventsOf i s)).sink.Agrees s.cfg (commitOf i s).ctl .ddram := by
  obtain ⟨hstd, hagrees⟩ := State.synced_iff.mp h
  have hsends {b : Byte} {t : Nat} {sk : Sink} (hevents : eventsOf i s = instr s.cfg b t)
      (hexec : ∀ k, s.sink.execByte s.cfg k b = sk) : (s.emitAll (eventsOf i s)).sink = sk :=
    hevents ▸ State.emitAll_append_instr_sink (evs := []) rfl hagrees.inStep hexec t
  have haimed (c r : Int) : (s.emitAll (positionEvents s.cfg c r)).sink.Agrees s.cfg s.ctl .ddram :=
    State.positionEvents_sink hstd hagrees.inStep c r ▸ hagrees.aimedAt .ddram _
  cases i with
  | init => exact absurd rfl hne
  | clear =>
    rw [hsends rfl fun k => Sink.execByte_clearByte k _ hstd]
    exact { hagrees with target := rfl, increment := rfl }
  | home =>
    rw [hsends rfl fun k => Sink.execByte_homeByte k _ hstd]
    exact { hagrees with target := rfl }
  | position c r => exact { haimed c r with }
  | write text col row => exact { State.emitAll_append_dataAll_agrees (haimed _ _) _ with }
  | writeChar code => exact State.emitAll_append_data_agrees (evs := []) hagrees code
  | displayOnOff _ | cursor _ _ =>
    rw [hsends rfl fun k => Sink.execByte_displayByte k _ hstd _ _ _]
    exact { hagrees with display := rfl, cursorShown := rfl, blink := rfl }
  | backlight v =>
    rw [show (s.emitAll (eventsOf (.backlight v) s)).sink = s.sink from State.backlightEvents_sink v]
    exact { hagrees with }
  | createChar slot pattern =>
    have hslot : (s.emitAll (instr s.cfg (cgramByte s.cfg (cgramAddr slot)) s.cfg.tShort)).sink.Agrees s.cfg s.ctl .cgram :=
      State.cgramByte_sink hstd hagrees.inStep _ _ ▸ hagrees.aimedAt .cgram _
    have hpattern := State.emitAll_append_dataAll_agrees hslot pattern
    have hback := State.emitAll_append_instr_sink rfl hpattern.inStep
      (fun k => Sink.execByte_ddramByte k _ hstd (s.cfg.ddramAddr s.col s.row)) s.cfg.tShort
    rw [show eventsOf (.createChar slot pattern) s = _ ++ dataAll s.cfg pattern ++ instr s.cfg _ s.cfg.tShort from rfl,
      hback]
    exact { hpattern with target := rfl }
  | displayShift direction =>
    rw [hsends rfl fun k => Sink.execByte_shiftByte k _ hstd _ _]
    exact { hagrees with }
  | _ => cases hop

/-- An operation of the READY state keeps the agreement, performed or failed (rules R126, R156). -/
theorem exec_synced_of_ne_init {i : Instr} {s t : State} (h : s.Synced) (hop : i.isOperation = true) (hne : i ≠ .init)
    (hrun : exec i s = .next t) : t.Synced := by
  rcases exec_sink_of_ne_init hne hrun with ⟨herror, -⟩ | ⟨hcheck, hsink⟩
  · cases hrun.symm.trans (exec_fails hop rfl herror)
    exact { h with }
  · obtain ⟨t', hrun', hran, -, -, hctl⟩ := exec_completes hop hne hcheck
    cases hrun.symm.trans hrun'
    rw [State.synced_iff, hran.cfg, hctl, hsink]
    exact ⟨h.bytes, h.eventsOf_agrees hop hne⟩

/-! ### Init -/

/-- Rules R57 and R58: a sink in step after steps 3 and 4 of an init. -/
def Sink.initialized (cfg : Cfg) (sk : Sink) : Sink :=
  { sk with
    wide := decide (cfg.mode = .eightBit), n := decide (2 ≤ cfg.rows), f := cfg.font5x10, half := none
    d := true, c := false, b := false, id := true, s := false
    target := .ddram, ac := 0, shift := 0, ddram := Memory.fill 128 0x20 }

section Init

variable {s : State} {evs : List Event} {sk : Sink}

/-- Rules R114 and R115: after the forced function-sets, and the narrowing one of 4-bit mode, the sink is in step, if no more
than three forced pulses were needed. -/
theorem State.initSteps1And2_inStep (hstd : s.cfg.standardBytes = true) (h : s.sink.ForcedLeft 3) :
    (s.emitAll (initStep1 s.cfg ++ initStep2 s.cfg)).sink.inStep s.cfg := by
  obtain ⟨hknown, hwide, hhalf⟩ := Sink.forcedLeft_zero.mp (State.initStep1_forcedLeft hstd h)
  cases hmode : s.cfg.mode with
  | eightBit =>
    rw [initStep2_of_eightBit hmode, List.append_nil]
    exact ⟨hknown, by rw [hwide, hmode]; rfl, hhalf⟩
  | fourBit =>
    obtain ⟨l, hl, hsink⟩ := (s.emitAll (initStep1 s.cfg)).instrHi_sink (by rwa [State.emitAll_cfg]) (narrow4Byte s.cfg)
      s.cfg.tShort
    rw [State.emitAll_cfg] at hl hsink
    obtain ⟨n, f, hlatch⟩ := Sink.latch_of_functionSet (s.emitAll (initStep1 s.cfg)).draws hl
      (.inr (hiNibble_functionByte hstd false)) hwide
    rw [initStep2_of_fourBit hmode, State.emitAll_append, hsink, Sink.pulse_of_known _ _ _ hknown, hlatch]
    refine ⟨hknown, ?_, rfl⟩
    rw [hmode, narrow4Byte, hiNibble_functionByte hstd false]
    rfl

/-- Rules R116 and R117: byte by byte, what steps 3 and 4 make of a sink in step. -/
theorem State.initSteps3And4_sink (hstd : s.cfg.standardBytes = true) (hsink : (s.emitAll evs).sink = sk)
    (hstep : sk.inStep s.cfg) : (s.emitAll (evs ++ (initStep3 s.cfg ++ initStep4 s.cfg))).sink = sk.initialized s.cfg := by
  have hknown := hstep.known
  have hfinal := State.emitAll_append_instr_sink hsink hstep
    (fun k => Sink.execByte_functionByte k _ hstd (decide (s.cfg.mode = .eightBit)) (decide (2 ≤ s.cfg.rows)) s.cfg.font5x10)
    s.cfg.tShort
  have hoff := State.emitAll_append_instr_sink hfinal ⟨hknown, rfl, rfl⟩
    (fun k => Sink.execByte_displayByte k _ hstd false false false) s.cfg.tShort
  have hclear := State.emitAll_append_instr_sink hoff ⟨hknown, rfl, rfl⟩
    (fun k => Sink.execByte_clearByte k _ hstd) s.cfg.tLong
  have hentry := State.emitAll_append_instr_sink hclear ⟨hknown, rfl, rfl⟩
    (fun k => Sink.execByte_entryByte k _ hstd true false) s.cfg.tShort
  have hon := State.emitAll_append_instr_sink hentry ⟨hknown, rfl, rfl⟩
    (fun k => Sink.execByte_displayByte k _ hstd true false false) s.cfg.tShort
  have hevents : evs ++ (initStep3 s.cfg ++ initStep4 s.cfg) =
      evs ++ instr s.cfg (finalByte s.cfg) s.cfg.tShort ++ displayEvents s.cfg false false false
        ++ instr s.cfg (clearByte s.cfg) s.cfg.tLong ++ instr s.cfg (entryByte s.cfg true false) s.cfg.tShort
        ++ displayEvents s.cfg true false false := by
    simp only [initStep3, initStep4, List.append_assoc]
  rw [hevents]
  exact hon

end Init

theorem initEvents_eq (cfg : Cfg) :
    initEvents cfg = initStep1 cfg ++ initStep2 cfg ++ (initStep3 cfg ++ initStep4 cfg) := by
  simp only [initEvents, List.append_assoc]

/-- Rules R54, R114 to R117 and R192: an init ends with the sink as its steps 3 and 4 leave one in step, from any sink. -/
theorem exec_init_sink {s t : State} (hstd : s.cfg.standardBytes = true) (h : exec .init s = .next t) :
    ∃ sk : Sink, sk.inStep s.cfg ∧ t.sink = sk.initialized s.cfg := by
  rcases exec_sink s h with ⟨herror, -⟩ | ⟨-, hsink⟩
  · exact absurd rfl herror
  have hforced : (entryOf .init s).sink.ForcedLeft 3 := Sink.expectForced_forcedLeft _
  have hstep := State.initSteps1And2_inStep (s := entryOf .init s) hstd hforced
  refine ⟨_, hstep, ?_⟩
  rw [hsink, show eventsOf .init s = _ from initEvents_eq s.cfg]
  exact State.initSteps3And4_sink (s := entryOf .init s) hstd rfl hstep

theorem Sink.initialized_agrees {cfg : Cfg} {sk : Sink} (h : sk.inStep cfg) (backlightOn : Bool) :
    (sk.initialized cfg).Agrees cfg (Controller.afterInit backlightOn) .ddram :=
  ⟨h.known, rfl, rfl, rfl, rfl, rfl, rfl, rfl, rfl, rfl, rfl⟩

theorem exec_init_synced {s t : State} (hstd : s.cfg.standardBytes = true) (h : exec .init s = .next t) : t.Synced := by
  obtain ⟨sk, hstep, hsink⟩ := exec_init_sink hstd h
  rw [State.synced_iff, exec_cfg s h, (exec_init_done h).ctl, hsink]
  exact ⟨hstd, Sink.initialized_agrees hstep _⟩

end Sys2Proof.Machine
end

section
/-! SUPPORT. CGRAM during an init (rule R181): drawn at its acceptance, and drawn again or left alone by each of its
transfers, none of which is data. -/

namespace Sys2Proof.Machine

/-- CGRAM is one draw, made with the index `k₀` or later. -/
def State.CgramDrawnSince (k₀ : Nat) (s : State) : Prop :=
  ∃ k, k₀ ≤ k ∧ k < s.draws ∧ s.sink.cgram = Memory.unknownCgram k

variable {k₀ : Nat} {s : State}

/-- A pulse with RS = 0 leaves CGRAM, or draws it. -/
theorem State.CgramDrawnSince.emit (h : s.CgramDrawnSince k₀) {ev : Event}
    (hrs : isFall s.latches ev → s.latches.rs = false) : (s.emit ev).CgramDrawnSince k₀ := by
  obtain ⟨k, hk, hk', hcgram⟩ := h
  unfold State.CgramDrawnSince
  rw [State.emit_sink, State.emit_draws]
  split
  case isFalse => exact ⟨k, hk, hk', hcgram⟩
  case isTrue hfall =>
    rcases Sink.pulse_keepsCgram s.cfg s.draws s.sink (hrs hfall) with hkept | hdrawn
    · exact ⟨k, hk, by omega, hkept.trans hcgram⟩
    · exact ⟨s.draws, by omega, by omega, hdrawn⟩

/-- RS is raised by a CTRL event alone. -/
theorem Latches.apply_rs_eq_false {cfg : Cfg} {l : Latches} {ev : Event} (h : l.rs = false)
    (hev : ∀ rw, ev ≠ .ctrl true rw) : (l.apply cfg ev).rs = false := by
  cases ev with
  | ctrl rs rw => exact Bool.eq_false_iff.mpr fun hrs => hev rw (by rw [show rs = true from hrs])
  | data w v =>
    simp only [Latches.apply]
    split <;> exact h
  | _ => exact h

theorem State.CgramDrawnSince.emitAll {evs : List Event} (h : s.CgramDrawnSince k₀) (hrs : s.latches.rs = false)
    (hevs : ∀ rw, .ctrl true rw ∉ evs) : (s.emitAll evs).CgramDrawnSince k₀ := by
  induction evs generalizing s with
  | nil => exact h
  | cons ev evs ih =>
    simp only [List.mem_cons, not_or] at hevs
    exact ih (h.emit fun _ => hrs) (Latches.apply_rs_eq_false hrs fun rw e => (hevs rw).1 e.symm) fun rw => (hevs rw).2

/-- Rule R88: an init sets RS to 0 first, and never to 1. -/
theorem initEvents_eq_cons (cfg : Cfg) :
    ∃ evs, initEvents cfg = .ctrl false false :: evs ∧ ∀ rw, .ctrl true rw ∉ evs := by
  refine ⟨(initEvents cfg).tail, ?_⟩
  cases hmode : cfg.mode <;>
    simp [initEvents, initStep1, forcedEvents, initStep2, initStep3, initStep4, displayEvents, instr, instrHi, xfer, xferHi,
      setControl, send, pulse, hmode]

theorem Sink.expectForced_cgram (sk : Sink) : sk.expectForced.cgram = sk.cgram := by
  unfold Sink.expectForced
  split <;> rfl

theorem exec_init_cgramDrawnSince {t : State} (h : exec .init s = .next t) : t.CgramDrawnSince s.draws := by
  obtain ⟨-, -, rfl⟩ := (exec_cases h).resolve_right fun hfailed => hfailed.1 rfl
  have hentry : (entryOf .init s).CgramDrawnSince s.draws :=
    ⟨s.draws, le_rfl, Nat.lt_succ_self _, Sink.expectForced_cgram _⟩
  obtain ⟨evs, hevents, hdata⟩ := initEvents_eq_cons s.cfg
  have hdone : ((entryOf .init s).emitAll (eventsOf .init s)).CgramDrawnSince s.draws := by
    rw [show eventsOf .init s = initEvents s.cfg from rfl, hevents]
    exact (hentry.emit (by simp [isFall])).emitAll rfl hdata
  exact hdone

end Sys2Proof.Machine
end

section
/-! SUPPORT. The sink under the moves that are not the engine's: reset and the display's loss of power (rules R178, R186,
R191). -/

namespace Sys2Proof.Machine

variable {s : State}

theorem State.reconstruct_draw_of_idle (cfg : Cfg) (h : s.busy = false) :
    (s.reconstruct cfg).sink = s.sink ∧ (s.reconstruct cfg).draws = s.draws := by
  simp [State.reconstruct, State.constructed, h]

theorem State.reconstruct_draw_of_busy (cfg : Cfg) (h : s.busy = true) :
    (s.reconstruct cfg).sink = Sink.unknown s.draws ∧ (s.reconstruct cfg).draws = s.draws + 1 := by
  simp [State.reconstruct, State.constructed, h]

/-- Rule R171: the move that powers the display again. -/
theorem step_of_powerDisplay {rest : List Input} (hwf : s.cfg.wf = true) (hmove : s.inputs = .powerDisplay :: rest) :
    step s = .next { s with inputs := rest }.loseSink := by
  simp [step, portStep, hostMove, hwf, hmove]

end Sys2Proof.Machine
end

section
/-! SUPPORT. The statements of the family 70_reset_and_hazards settled: what operations, inits, resets and a loss of power
make of the display, and the engine that waits. -/

namespace Sys2Proof.Machine

/-- Settles O47: a failed operation leaves engine and sink, init brings them together again, and any other operation sends
what keeps them together. -/
theorem operationsKeepDisplaySynced : Obligations.OperationsKeepDisplaySynced := by
  unfold Obligations.OperationsKeepDisplaySynced
  intro i s t hop hsynced hrun
  by_cases hinit : i = .init
  · subst hinit
    exact exec_init_synced hsynced.bytes hrun
  · exact exec_synced_of_ne_init hsynced hop hinit hrun

/-- Settles O46: the forced function-sets reach any sink, and the bytes after them set it to what the engine writes. -/
theorem initSynchronisesDisplay : Obligations.InitSynchronisesDisplay := by
  unfold Obligations.InitSynchronisesDisplay
  intro s hstd
  obtain ⟨t, hrun⟩ := exec_next_of_form s (i := .init) rfl
  obtain ⟨sk, -, hsink⟩ := exec_init_sink hstd hrun
  refine ⟨t, hrun, exec_init_synced hstd hrun, ?_⟩
  rw [hsink]
  exact ⟨rfl, rfl, fun a ha => (Memory.read_fill 128 0x20 a).trans (if_pos ha)⟩

/-- Settles O60: an init draws CGRAM when it is accepted, and sends no data. -/
theorem initLeavesCgramUnknown : Obligations.InitLeavesCgramUnknown := by
  unfold Obligations.InitLeavesCgramUnknown
  intro s
  obtain ⟨t, hrun⟩ := exec_next_of_form s (i := .init) rfl
  obtain ⟨k, hk, hk', hcgram⟩ := exec_init_cgramDrawnSince hrun
  refine ⟨t, k, hrun, hk, hk', fun a ha => ?_⟩
  rw [hcgram, Memory.read_unknownCgram, if_pos ha]

/-- Settles O4: each of the two moves by its definition; BUSY decides what reset does. -/
theorem resetAndPowerLossAtDisplay : Obligations.ResetAndPowerLossAtDisplay := by
  unfold Obligations.ResetAndPowerLossAtDisplay
  intro s cfg rest hwf hwf'
  refine ⟨fun hmove hidle => ?_, fun hmove hbusy => ?_, step_of_powerDisplay hwf⟩
  · exact ⟨_, (step_of_construct s hwf hmove).trans (if_pos hwf'), State.reconstruct_draw_of_idle cfg hidle⟩
  · exact ⟨_, (step_of_construct s hwf hmove).trans (if_pos hwf'), State.reconstruct_draw_of_busy cfg hbusy⟩

/-- Settles O6: a micro-step of an idle engine is none. -/
theorem idleEngineWaits : Obligations.IdleEngineWaits := by
  unfold Obligations.IdleEngineWaits
  intro s hwf hidle
  have hwaits (rest : List Input) (hmove : s.inputs = .wait :: rest ∨ s.inputs = [] ∧ rest = []) :
      step s = .next { s with inputs := rest } :=
    (step_of_waiting s hwf hmove).trans (congrArg _ (State.advance_of_idle _ hidle))
  refine ⟨fun hnone => ?_, fun rest hmove => hwaits rest (.inl hmove)⟩
  rw [hwaits [] (.inr ⟨hnone, rfl⟩), ← hnone]

end Sys2Proof.Machine
end
